-- ==== Sys2Proof/Word.lean ====
section
/-! DEFINITION. The two word types of the block (00_scope R11): bytes and 32-bit words. -/

namespace Sys2Proof

/-- A byte: an element of a framebuffer, an expander or PMIC register, a drive byte. -/
abbrev Byte := BitVec 8

/-- A 32-bit word: a host register, a command, a fast-port pattern. -/
abbrev Word := BitVec 32

end Sys2Proof
end

