-- ==== Sys2Proof/Syntax.lean ====
section
/-! DEFINITION. The commands as data: one constructor per row of the opcode table (30_encoding R119, R130). -/

namespace Sys2Proof

/-- The pixel mode: MONO (1-bit, m = 0) or GRAY (3-bit, m = 1) (30 R113, 10 R32). -/
inductive Mode where
  | mono
  | gray
  deriving DecidableEq, Repr, Inhabited

/-- The two I/O expanders: bit c of format X (30 R116). -/
inductive Chip where
  | x0
  | x1
  deriving DecidableEq, Repr, Inhabited

/-- The three defined pin modes of PINMODE (30 R116); mode 3 is a reserved encoding and has no constructor. -/
inductive PinMode where
  | input
  | output
  | inputPullup
  deriving DecidableEq, Repr, Inhabited

/-- An expander pin 0..15: port `p / 8`, bit `p % 8` (41 R171). -/
abbrev Pin := Fin 16

/-- A host command with its operands as R117 extracts them. The coordinates of SETPIX are mathematical
integers (R156 b), so that R130's refusal of an operand outside its field is a check (`Instr.WellFormed`);
every other operand has exactly its field's values by its type. -/
inductive Instr where
  | nop
  | setpix (x y : Int) (v : BitVec 3)
  | clear
  | setmode (m : Mode)
  | setrot (r : BitVec 2)
  | display
  | partialRefresh
  | pwron
  | pwroff
  | vstart
  | hstart (d : Byte)
  | hdata (d : Byte)
  | vend
  | pinmode (c : Chip) (p : Pin) (mode : PinMode)
  | pinwrite (c : Chip) (p : Pin) (level : Bool)
  | pinread (c : Chip) (p : Pin)
  /-- A word of the reserved opcode space 0x10-0x1F: `low` is cmd[30:0] (30 R121). -/
  | reserved (low : BitVec 31)
  deriving DecidableEq, Repr, Inhabited

end Sys2Proof
end

