-- ==== Sys2Proof/WellFormed.lean ====
section
/-! DEFINITION. Which commands have an encoding: R130's operand ranges. -/

namespace Sys2Proof

/-- A coordinate fits the 12-bit two's-complement field of format P (30 R112, R130). -/
def coordFits (x : Int) : Bool := decide (-2048 ≤ x) && decide (x ≤ 2047)

/-- "An assembler must refuse an operand outside its field (x or y outside -2048..2047, ...)" (30 R130).
The other ranges of R130 (v, r, d, c, p, l) hold by the operands' types. -/
def Instr.WellFormed : Instr → Bool
  | .setpix x y _ => coordFits x && coordFits y
  | .nop => true
  | .clear => true
  | .setmode _ => true
  | .setrot _ => true
  | .display => true
  | .partialRefresh => true
  | .pwron => true
  | .pwroff => true
  | .vstart => true
  | .hstart _ => true
  | .hdata _ => true
  | .vend => true
  | .pinmode _ _ _ => true
  | .pinwrite _ _ _ => true
  | .pinread _ _ => true
  | .reserved _ => true

end Sys2Proof
end

