-- ==== Sys2Proof/Decode.lean ====
section
/-! DEFINITION. The decoder of 30_encoding R120, total on every 32-bit word, and the encoder of the same tables. -/

namespace Sys2Proof

/-- The sixteen defined opcodes of R119. -/
inductive Opcode where
  | nop | setpix | clear | setmode | setrot | display | partialRefresh | pwron
  | pwroff | vstart | hstart | hdata | vend | pinmode | pinwrite | pinread
  deriving DecidableEq, Repr

/-- One row of the opcode map R119: `match` and `mask`. -/
structure OpRow where
  pattern : Word
  mask : Word
  deriving DecidableEq, Repr

/-- The opcode map (30 R119). -/
def opRow : Opcode → OpRow
  | .nop => ⟨0x00000000, 0xFFFFFFFF⟩
  | .setpix => ⟨0x08000000, 0xF8000000⟩
  | .clear => ⟨0x10000000, 0xFFFFFFFF⟩
  | .setmode => ⟨0x18000000, 0xFFFFFFFE⟩
  | .setrot => ⟨0x20000000, 0xFFFFFFFC⟩
  | .display => ⟨0x28000000, 0xFFFFFFFF⟩
  | .partialRefresh => ⟨0x30000000, 0xFFFFFFFF⟩
  | .pwron => ⟨0x38000000, 0xFFFFFFFF⟩
  | .pwroff => ⟨0x40000000, 0xFFFFFFFF⟩
  | .vstart => ⟨0x48000000, 0xFFFFFFFF⟩
  | .hstart => ⟨0x50000000, 0xFFFFFF00⟩
  | .hdata => ⟨0x58000000, 0xFFFFFF00⟩
  | .vend => ⟨0x60000000, 0xFFFFFFFF⟩
  | .pinmode => ⟨0x68000000, 0xF83FFFFC⟩
  | .pinwrite => ⟨0x70000000, 0xF83FFFFE⟩
  | .pinread => ⟨0x78000000, 0xF83FFFFF⟩

/-- The row of the reserved space 0x10-0x1F (30 R119, R121). -/
def reservedRow : OpRow := ⟨0x80000000, 0x80000000⟩

/-- cmd[30:27], the low four bits of the opcode field, when cmd[31] = 0. -/
def Opcode.ofBits (b : BitVec 4) : Opcode :=
  match b.toNat with
  | 0x0 => .nop
  | 0x1 => .setpix
  | 0x2 => .clear
  | 0x3 => .setmode
  | 0x4 => .setrot
  | 0x5 => .display
  | 0x6 => .partialRefresh
  | 0x7 => .pwron
  | 0x8 => .pwroff
  | 0x9 => .vstart
  | 0xA => .hstart
  | 0xB => .hdata
  | 0xC => .vend
  | 0xD => .pinmode
  | 0xE => .pinwrite
  | _ => .pinread  -- 0xF: four bits leave no other value

/-- Why the decoder gives no command: R120's `Reserved(code 2)`, by name. -/
inductive DecodeError where
  /-- A bit that the format marks reserved is 1 (30 R122). -/
  | reservedBit
  /-- PINMODE with mode 3 (30 R120, R122). -/
  | reservedMode
  deriving DecidableEq, Repr

/-- The decoder's answer. -/
inductive Decoded where
  | command (i : Instr)
  | rejected (e : DecodeError)
  deriving DecidableEq, Repr

/-- The field of `n` bits of `w` from bit `lo` up (30 R117). -/
def field (w : Word) (lo n : Nat) : BitVec n := w.extractLsb' lo n

/-- A 12-bit coordinate field: two's complement, as a mathematical integer (30 R117). -/
def coordOf (b : BitVec 12) : Int := b.toInt

def chipOf (b : BitVec 1) : Chip := if b = 0 then .x0 else .x1

/-- PINMODE's field a; 3 is reserved (30 R116). -/
def pinModeOf : BitVec 2 → Option PinMode
  | 0 => some .input
  | 1 => some .output
  | 2 => some .inputPullup
  | 3 => none

/-- The operands of a word whose opcode is known and whose reserved bits are 0 (30 R117, R120). -/
def decodeOperands (op : Opcode) (w : Word) : Decoded :=
  match op with
  | .nop => .command .nop
  | .setpix => .command (.setpix (coordOf (field w 15 12)) (coordOf (field w 3 12)) (field w 0 3))
  | .clear => .command .clear
  | .setmode => .command (.setmode (if field w 0 1 = 0 then .mono else .gray))
  | .setrot => .command (.setrot (field w 0 2))
  | .display => .command .display
  | .partialRefresh => .command .partialRefresh
  | .pwron => .command .pwron
  | .pwroff => .command .pwroff
  | .vstart => .command .vstart
  | .hstart => .command (.hstart (field w 0 8))
  | .hdata => .command (.hdata (field w 0 8))
  | .vend => .command .vend
  | .pinmode =>
    match pinModeOf (field w 0 2) with
    | some mode => .command (.pinmode (chipOf (field w 26 1)) (field w 22 4).toFin mode)
    | none => .rejected .reservedMode
  | .pinwrite =>
    .command (.pinwrite (chipOf (field w 26 1)) (field w 22 4).toFin (decide (field w 0 1 = 1)))
  | .pinread => .command (.pinread (chipOf (field w 26 1)) (field w 22 4).toFin)

/-- The decoder (30 R120). A word of the reserved opcode space is the command `reserved`, whose meaning records
code 1; every other undefined word is rejected by name and the host port records code 2. -/
def decode (w : Word) : Decoded :=
  if field w 31 1 = 1 then .command (.reserved (field w 0 31))
  else
    let op := Opcode.ofBits (field w 27 4)
    if w &&& (opRow op).mask = (opRow op).pattern then decodeOperands op w
    else .rejected .reservedBit

/-- `b` placed at bit `lo` of a word. -/
def place {n : Nat} (lo : Nat) (b : BitVec n) : Word := b.zeroExtend 32 <<< lo

def coordBits (x : Int) : BitVec 12 := BitVec.ofInt 12 x

def chipBit : Chip → BitVec 1
  | .x0 => 0
  | .x1 => 1

def pinBits (p : Pin) : BitVec 4 := BitVec.ofFin p

def pinModeBits : PinMode → BitVec 2
  | .input => 0
  | .output => 1
  | .inputPullup => 2

/-- The 32-bit word of a command (30 R111-R116, R119). -/
def encode : Instr → Word
  | .nop => (opRow .nop).pattern
  | .setpix x y v =>
    (opRow .setpix).pattern ||| place 15 (coordBits x) ||| place 3 (coordBits y) ||| place 0 v
  | .clear => (opRow .clear).pattern
  | .setmode m => (opRow .setmode).pattern ||| place 0 (BitVec.ofBool (decide (m = .gray)))
  | .setrot r => (opRow .setrot).pattern ||| place 0 r
  | .display => (opRow .display).pattern
  | .partialRefresh => (opRow .partialRefresh).pattern
  | .pwron => (opRow .pwron).pattern
  | .pwroff => (opRow .pwroff).pattern
  | .vstart => (opRow .vstart).pattern
  | .hstart d => (opRow .hstart).pattern ||| place 0 d
  | .hdata d => (opRow .hdata).pattern ||| place 0 d
  | .vend => (opRow .vend).pattern
  | .pinmode c p mode =>
    (opRow .pinmode).pattern ||| place 26 (chipBit c) ||| place 22 (pinBits p) ||| place 0 (pinModeBits mode)
  | .pinwrite c p level =>
    (opRow .pinwrite).pattern ||| place 26 (chipBit c) ||| place 22 (pinBits p) ||| place 0 (BitVec.ofBool level)
  | .pinread c p => (opRow .pinread).pattern ||| place 26 (chipBit c) ||| place 22 (pinBits p)
  | .reserved low => reservedRow.pattern ||| place 0 low

/-- The row of R119 that a command's words belong to. -/
def rowOf : Instr → OpRow
  | .nop => opRow .nop
  | .setpix _ _ _ => opRow .setpix
  | .clear => opRow .clear
  | .setmode _ => opRow .setmode
  | .setrot _ => opRow .setrot
  | .display => opRow .display
  | .partialRefresh => opRow .partialRefresh
  | .pwron => opRow .pwron
  | .pwroff => opRow .pwroff
  | .vstart => opRow .vstart
  | .hstart _ => opRow .hstart
  | .hdata _ => opRow .hdata
  | .vend => opRow .vend
  | .pinmode _ _ _ => opRow .pinmode
  | .pinwrite _ _ _ => opRow .pinwrite
  | .pinread _ _ => opRow .pinread
  | .reserved _ => reservedRow

/-- The command word whose low `nbits` bits are those of `w`; every higher bit is 0. Every command is one
32-bit word (30 R110). -/
def tableWord (nbits w : Nat) : Word := BitVec.ofNat 32 (w % 2 ^ nbits)

/-- The command read from a word numbered as the opcode table numbers it; none where the decoder rejects it. -/
def decodeTableWord (nbits w : Nat) : Option Instr :=
  match decode (tableWord nbits w) with
  | .command i => some i
  | .rejected _ => none

end Sys2Proof
end

