-- ==== Sys2Proof/Config.lean ====
section
/-! DEFINITION. The implementation parameters of 00_scope R9 as one record, the test configuration TC of
95_test_vectors section 2, and the free values of the model. -/

namespace Sys2Proof

/-- The parameters of R9 whose value is OPEN or the spec's own decision. The quoted ones are the constants
below. Types already exclude what R10 excludes of WAVEFORM (each entry in 0..3), of the core pins (each in 0..15)
and of CLEAN_TAIL (two passes, each repeated once); the rest of R10 is `Machine.configOk`. -/
structure Config where
  /-- `W`, `H`: panel width and height in pixels. -/
  w : Nat
  h : Nat
  /-- `REG_BASE`: base address of the host register window. -/
  regBase : Nat
  /-- `RESET_MODE`. -/
  resetMode : Mode
  /-- `GRAY_WHITE`. -/
  grayWhite : BitVec 3
  /-- `CODE_WHITE`, `CODE_BLACK`. -/
  codeWhite : BitVec 2
  codeBlack : BitVec 2
  /-- `WAVEFORM[l][p]`: drive code of gray level l in phase p. -/
  waveform : Vector (Vector (BitVec 2) 9) 8
  /-- `DATA_GROUP_POS[g]`: fast-port bit of lane g's low bit. -/
  dataGroupPos : Vector Nat 4
  clPos : Nat
  lePos : Nat
  ckvPos : Nat
  sphPos : Nat
  /-- `VS_T[0..9]`: delays of the vertical scan start, in microseconds. -/
  vsT : Vector Nat 10
  passDelayUs : Nat
  /-- `FULL_PREAMBLE`, `GRAY_TAIL`: clean passes as (code, repeat) pairs. -/
  fullPreamble : List (BitVec 2 × Nat)
  /-- The codes of the two passes of `CLEAN_TAIL`: the count of two is quoted, the codes are a parameter (92 D23). -/
  cleanTailCodes : Vector (BitVec 2) 2
  grayTail : List (BitVec 2 × Nat)
  wakeDelayMs : Nat
  offSettleMs : Nat
  /-- The PMIC interface. `pmicAddr` and the expander addresses name devices on the bus: no event shows them. -/
  pmicAddr : Byte
  pmicEnReg : Byte
  pmicEnVal : Byte
  pgReg : Byte
  pgMask : Byte
  pgValue : Byte
  xAddr0 : Byte
  xAddr1 : Byte
  /-- The six core pins of expander 0. -/
  pinOe : Pin
  pinGmod : Pin
  pinSpv : Pin
  pinWakeup : Pin
  pinPwrup : Pin
  pinVcom : Pin
  deriving DecidableEq, Repr

/-- `CODE_DISCHARGE` and `CODE_SKIP` (42 R200). -/
def codeDischarge : BitVec 2 := 0b00
def codeSkip : BitVec 2 := 0b11

/-- The quoted counts of R9. -/
def partialRepeat : Nat := 3
def fullFwdRepeat : Nat := 1
def fullRevRepeat : Nat := 1
def pgPollMs : Nat := 1
def pgTimeoutMs : Nat := 250

/-- The test configuration TC of 95_test_vectors section 2, with the proposed values of R9 where TC names none.
DESIGN CHOICE: `regBase` is 0, for which the spec proposes no value. It stands for no board (92 D22, D26). -/
def Config.tc : Config where
  w := 8
  h := 2
  regBase := 0
  resetMode := .mono
  grayWhite := 7
  codeWhite := 0b10
  codeBlack := 0b01
  waveform := #v[
    #v[0, 1, 2, 3, 0, 1, 2, 3, 0], #v[1, 2, 3, 0, 1, 2, 3, 0, 1],
    #v[2, 3, 0, 1, 2, 3, 0, 1, 2], #v[3, 0, 1, 2, 3, 0, 1, 2, 3],
    #v[0, 1, 2, 3, 0, 1, 2, 3, 0], #v[1, 2, 3, 0, 1, 2, 3, 0, 1],
    #v[2, 3, 0, 1, 2, 3, 0, 1, 2], #v[3, 0, 1, 2, 3, 0, 1, 2, 3]]
  dataGroupPos := #v[4, 18, 23, 25]
  clPos := 0
  lePos := 2
  ckvPos := 30
  sphPos := 31
  vsT := #v[7, 10, 0, 8, 10, 0, 18, 0, 18, 0]
  passDelayUs := 230
  fullPreamble := [(0b01, 1), (0b10, 1)]
  cleanTailCodes := #v[codeDischarge, codeDischarge]
  grayTail := []
  wakeDelayMs := 5
  offSettleMs := 6
  pmicAddr := 0x48
  pmicEnReg := 0x01
  pmicEnVal := 0x3F
  pgReg := 0x0F
  pgMask := 0xFF
  pgValue := 0xFA
  xAddr0 := 0x20
  xAddr1 := 0x22
  pinOe := 0
  pinGmod := 1
  pinSpv := 2
  pinWakeup := 3
  pinPwrup := 4
  pinVcom := 5

/-- FREE VALUE: the n-th probe answer once the tape `State.envAcks` is empty (00 R14, 93 U8). -/
opaque Config.freeAck : Nat → Bool

/-- FREE VALUE: the n-th expander byte once the tape `State.envExp` is empty, and the unspecified shadow bytes of
an expander that did not acknowledge (93 U2, U8). -/
opaque Config.freeExpByte : Nat → Byte

/-- FREE VALUE: the n-th PMIC byte once the tape `State.envPmic` is empty (93 U8). -/
opaque Config.freePmicByte : Nat → Byte

end Sys2Proof
end

