-- ==== Sys2Proof/Machine/State.lean ====
section
/-! DEFINITION. The block's state as plain data (10_state R30-R50), the events of its trace, the host's pending
actions, the reasons to stop, and the state after reset. -/

namespace Sys2Proof.Machine

/-- The power-sequencing state machine (10 R35, 46 R336). -/
inductive Pwr where
  | off
  | enabling
  | on
  | disabling
  deriving DecidableEq, Repr, Inhabited

/-- The address of an expander register, 0x00..0x15 (10 R40). -/
abbrev RegAddr := Fin 22

/-- The events of the trace (00 R13, R14). -/
inductive Event where
  /-- `FSET(m)` -/
  | fset (m : Word)
  /-- `FCLR(m)` -/
  | fclr (m : Word)
  /-- `FDIR(m)` -/
  | fdir (m : Word)
  /-- `XW(c, a, v)` -/
  | xw (c : Chip) (a : RegAddr) (v : Byte)
  /-- `XWB(c, a, bs)` -/
  | xwb (c : Chip) (a : RegAddr) (bs : List Byte)
  /-- `DUS(n)` -/
  | dus (n : Nat)
  /-- `DMS(n)` -/
  | dms (n : Nat)
  /-- `PW(a, v)` -/
  | pw (a v : Byte)
  /-- `XPROBE(c) -> ack` -/
  | xprobe (c : Chip) (ack : Bool)
  /-- `XR(c, a) -> v` -/
  | xr (c : Chip) (a : RegAddr) (v : Byte)
  /-- `XRB(c, a, n) -> bs` -/
  | xrb (c : Chip) (a : RegAddr) (n : Nat) (bs : List Byte)
  /-- `PR(a) -> v` -/
  | pr (a v : Byte)
  deriving DecidableEq, Repr, Inhabited

/-- What the host can do (70 R411): write or read a register at a byte address with an access width in bits, or
assert and release the reset input. -/
inductive HostInput where
  | write (addr bits : Nat) (v : Word)
  | read (addr bits : Nat)
  | reset
  deriving DecidableEq, Repr, Inhabited

/-- The error codes (60 R360). -/
inductive ErrCode where
  | reservedOpcode
  | reservedField
  | busy
  | corePin
  | noPower
  | pgTimeout
  | absent
  deriving DecidableEq, Repr

/-- The block's state, the trace, and the model's own fields. -/
structure State where
  /-- The parameters of 00 R9. No step changes them (43 R237). -/
  cfg : Config
  /-- `MODE` (R32). -/
  mode : Mode
  /-- `ROT` (R33). -/
  rot : BitVec 2
  /-- `FORCED_FULL` (R34). -/
  forcedFull : Bool
  /-- `PWR` (R35). -/
  pwr : Pwr
  /-- `FB1` (R36): the bytes that differ from 0x00, by rising index. -/
  fb1 : List Host.Cell
  /-- `FB3` (R37): the bytes that differ from the gray blank, by rising index. -/
  fb3 : List Host.Cell
  /-- `PREV` (R38): the bytes that differ from 0x00, by rising index. -/
  prev : List Host.Cell
  /-- `SHADOW[0]` and `SHADOW[1]` (R40). -/
  shadow0 : Vector Byte 22
  shadow1 : Vector Byte 22
  /-- `XPRESENT[0]` and `XPRESENT[1]` (R42). -/
  xpresent0 : Bool
  xpresent1 : Bool
  /-- `FAST_OUT` and `FAST_DIR` (R43). -/
  fastOut : Word
  fastDir : Word
  /-- The status fields of R46 and R48 that have storage of their own. -/
  pwrFail : Bool
  errCmd : Bool
  errNopwr : Bool
  fault : Bool
  busy : Bool
  lastErr : BitVec 4
  /-- `RESULT` (R47). -/
  result : Word
  /-- The trace `T` (R49), oldest event first. -/
  trace : List Event
  /-- MODEL'S OWN: the host's actions to come; each step takes the first. -/
  hostIn : List HostInput
  /-- MODEL'S OWN: the word the last host read returned (40 R153). -/
  readData : Word
  /-- MODEL'S OWN: the environment's answers to come to `ExpProbe`, to expander reads and to `PmicRead` (00 R14). -/
  envAcks : List Bool
  envExp : List Byte
  envPmic : List Byte
  /-- MODEL'S OWN: how many free values have been drawn. No statement rests on its value. -/
  draws : Nat
  deriving DecidableEq, Repr

/-- Reasons for which the machine stops. The spec's own `fault(7)` is not one of them: it is the bit `State.fault`,
and the machine goes on (60 R366). -/
inductive Fault where
  /-- Raised by SETPIX when the buffer index it forms is not below the buffer's size. SAFE: the spec says that
  every index a command forms is in range (43 R237), and for a configuration that meets R10, the only ones a step
  runs, this is never raised. -/
  | bufferIndex (i : Nat)
  deriving DecidableEq, Repr

/-- Reasons for which the model gives a step no meaning. -/
inductive Refusal where
  /-- Raised by `exec` for an instruction that has no meaning yet; no arm does so now. SAFE. -/
  | notModelled (mnemonic : String)
  /-- Raised by the host port for an access that the block does not decode: another width, a misaligned address or
  another offset (20 R86, 60 R378: "A model refuses every access this rule does not decode"). SAFE. -/
  | undecodedAccess
  /-- Raised by the step for parameters that break 00 R10 ("a configuration that breaks one is refused by the
  model"). SAFE. -/
  | badConfig
  deriving DecidableEq, Repr

/-- The register image left by an init whose block read answered 22 bytes of 0x00: IODIRA and IODIRB are 0xFF
(41 R170, 95 section 2). -/
def initShadow : Vector Byte 22 :=
  #v[0xFF, 0xFF, 0, 0, 0, 0, 0, 0, 0, 0, 0, 0, 0, 0, 0, 0, 0, 0, 0, 0, 0, 0]

/-- The events of one EXPANDER_INIT whose probe was acknowledged and whose block read answered 22 bytes of 0x00
(41 R170, Example). -/
def initEvents (c : Chip) : List Event :=
  [.xprobe c true, .xrb c 0 22 (List.replicate 22 0), .xwb c 0 initShadow.toList]

/-- The state right after RESET (70 R390): every field the spec gives a value has it. What the spec leaves to the
environment or to a parameter is that of `CleanLaunch` (70 R413) in the test configuration TC (95 section 2), both
DESIGN CHOICE (log entries 1 and 2). -/
def State.reset : State where
  cfg := Config.tc
  mode := .mono
  rot := 0
  forcedFull := false
  pwr := .off
  fb1 := []
  fb3 := []
  prev := []
  shadow0 := initShadow
  shadow1 := initShadow
  xpresent0 := true
  xpresent1 := true
  fastOut := 0
  fastDir := 0
  pwrFail := false
  errCmd := false
  errNopwr := false
  fault := false
  busy := false
  lastErr := 0
  result := 0
  trace := initEvents .x0 ++ initEvents .x1
  hostIn := []
  readData := 0
  envAcks := []
  envExp := []
  envPmic := []
  draws := 0

end Sys2Proof.Machine
end

