-- ==== Sys2Proof/Machine/Memory.lean ====
section
/-! DEFINITION. One byte memory as a list of cells in one canonical form: indexes strictly rising, no cell equal to
the blank byte `d` that an unlisted index reads as (20 R80-R83, R87). -/

namespace Sys2Proof.Machine

/-- The byte at index `a`; an unlisted index reads `d`. -/
def Memory.read (d : Byte) : List Host.Cell → Nat → Byte
  | [], _ => d
  | (k, v) :: t, a => if a = k then v else Memory.read d t a

/-- A cell in front of a canonical rest, left out when it holds the blank byte. -/
def Memory.put (d : Byte) (a : Nat) (v : Byte) (t : List Host.Cell) : List Host.Cell :=
  if v = d then t else (a, v) :: t

/-- The memory with `v` at index `a`; writing the blank byte removes the cell. -/
def Memory.write (d : Byte) : List Host.Cell → Nat → Byte → List Host.Cell
  | [], a, v => Memory.put d a v []
  | (k, w) :: t, a, v =>
    if a < k then Memory.put d a v ((k, w) :: t)
    else if a = k then Memory.put d a v t
    else (k, w) :: Memory.write d t a v

/-- Every listed index is above `a`. -/
def Memory.above (a : Nat) (m : List Host.Cell) : Bool := m.all fun c => decide (a < c.1)

/-- The canonical form. -/
def Memory.wf (d : Byte) : List Host.Cell → Bool
  | [] => true
  | (k, v) :: t => decide (v ≠ d) && Memory.above k t && Memory.wf d t

/-- Every listed index is below `n`. -/
def Memory.within (n : Nat) (m : List Host.Cell) : Bool := m.all fun c => decide (c.1 < n)

end Sys2Proof.Machine
end

