-- ==== Sys2Proof/Machine/Tables.lean ====
section
/-! DEFINITION. What the parameters determine: sizes, the constraint check of 00 R10, fast-port masks and the
tables of 42_tables, computed on demand (10 R44, 42 R212). -/

namespace Sys2Proof.Machine

/-! ### Sizes (00 R9, 20 R80) -/

/-- `FB1_SIZE`, also the size of `PREV`. -/
def fb1Size (c : Config) : Nat := c.w / 8 * c.h

/-- `FB3_SIZE`. -/
def fb3Size (c : Config) : Nat := c.w / 2 * c.h

/-- `WORDS_PER_ROW`. -/
def wordsPerRow (c : Config) : Nat := c.w / 4

/-- The blank byte of `FB1` and `PREV` (10 R36, R38). -/
def monoBlank : Byte := 0x00

/-- The blank byte of `FB3`: `(GRAY_WHITE << 4) | GRAY_WHITE` (10 R37). -/
def grayBlank (c : Config) : Byte :=
  (c.grayWhite.zeroExtend 8 <<< 4) ||| c.grayWhite.zeroExtend 8

/-! ### The constraints of 00 R10 -/

/-- The six core pins (00 R9). -/
def corePins (c : Config) : List Pin :=
  [c.pinOe, c.pinGmod, c.pinSpv, c.pinWakeup, c.pinPwrup, c.pinVcom]

/-- The twelve fast-port bit positions: two per data lane, then CL, LE, CKV, SPH. -/
def fastPositions (c : Config) : List Nat :=
  [c.dataGroupPos[0], c.dataGroupPos[0] + 1, c.dataGroupPos[1], c.dataGroupPos[1] + 1,
   c.dataGroupPos[2], c.dataGroupPos[2] + 1, c.dataGroupPos[3], c.dataGroupPos[3] + 1,
   c.clPos, c.lePos, c.ckvPos, c.sphPos]

def geometryOk (c : Config) : Bool :=
  decide (c.w % 8 = 0) && decide (8 ≤ c.w) && decide (c.w ≤ 2047) && decide (1 ≤ c.h) && decide (c.h ≤ 2047)

def positionsOk (c : Config) : Bool :=
  decide (fastPositions c).Nodup && (fastPositions c).all fun p => decide (p < 32)

def codesOk (c : Config) : Bool :=
  (decide (c.codeWhite = 0b01) && decide (c.codeBlack = 0b10)) ||
  (decide (c.codeWhite = 0b10) && decide (c.codeBlack = 0b01))

/-- The number of passes of a clean list: the sum of its repeat counts (44 R269). -/
def passCount (l : List (BitVec 2 × Nat)) : Nat := (l.map Prod.snd).sum

/-- `CLEAN_TAIL`: the two clean passes after a 1-bit refresh (00 R9, 92 D23). -/
def cleanTail (c : Config) : List (BitVec 2 × Nat) := [(c.cleanTailCodes[0], 1), (c.cleanTailCodes[1], 1)]

def repeatsOk (c : Config) : Bool :=
  (c.fullPreamble ++ cleanTail c ++ c.grayTail).all (fun e => decide (1 ≤ e.2)) &&
  decide (2 ≤ passCount c.fullPreamble)

def corePinsOk (c : Config) : Bool := decide (corePins c).Nodup

/-- The constraints of R10; the step refuses a configuration that breaks one. -/
def configOk (c : Config) : Bool :=
  geometryOk c && positionsOk c && codesOk c && repeatsOk c && corePinsOk c

/-! ### Drive bytes (42 R200, R201, R206) -/

/-- Lane g of a drive byte: bits [2g+1:2g] (R201). -/
def lane (d : Byte) (g : Fin 4) : BitVec 2 := d.extractLsb' (2 * g.val) 2

/-- The drive byte whose lane g holds `f g`. -/
def ofLanes (f : Fin 4 → BitVec 2) : Byte := f 3 ++ f 2 ++ f 1 ++ f 0

/-- `CLEAN_BYTE(c)`: code c in all four lanes (R206). -/
def cleanByte (code : BitVec 2) : Byte := ofLanes fun _ => code

/-! ### The bit-expansion table (42 R202) -/

/-- Lane g of `d`, moved to its place in the fast port. -/
def laneBits (c : Config) (d : Byte) (g : Fin 4) : Word :=
  (lane d g).zeroExtend 32 <<< c.dataGroupPos.get g

/-- `PINLUT[d]`. -/
def pinlut (c : Config) (d : Byte) : Word :=
  laneBits c d 0 ||| laneBits c d 1 ||| laneBits c d 2 ||| laneBits c d 3

/-- `DECODE(w)` of R207: the four data groups read back. -/
def pinDecode (c : Config) (w : Word) : Byte :=
  ofLanes fun g => (w >>> c.dataGroupPos.get g).extractLsb' 0 2

/-- `DATA_MASK`, `CL`, `LE`, `CKV`, `SPH` (R202). -/
def dataMask (c : Config) : Word := pinlut c 0xFF
def clMask (c : Config) : Word := (1 : Word) <<< c.clPos
def leMask (c : Config) : Word := (1 : Word) <<< c.lePos
def ckvMask (c : Config) : Word := (1 : Word) <<< c.ckvPos
def sphMask (c : Config) : Word := (1 : Word) <<< c.sphPos

/-- `DATA_MASK | CL | LE | CKV | SPH`: the fast-port bits the block owns (70 R402). -/
def panelMask (c : Config) : Word := dataMask c ||| clMask c ||| leMask c ||| ckvMask c ||| sphMask c

/-! ### Monochrome transition tables (42 R203, R204, R209, R210) -/

/-- `LUTW[m]`. -/
def lutw (c : Config) (m : BitVec 4) : Byte :=
  ofLanes fun j => if m.getLsbD j.val then c.codeWhite else codeSkip

/-- `LUTB[m]`. -/
def lutb (c : Config) (m : BitVec 4) : Byte :=
  ofLanes fun j => if m.getLsbD j.val then c.codeBlack else codeSkip

def hiNibble (b : Byte) : BitVec 4 := b.extractLsb' 4 4
def loNibble (b : Byte) : BitVec 4 := b.extractLsb' 0 4

/-- `MONO_PAIR(mw, mb)` (R210). -/
def monoPair (c : Config) (mw mb : Byte) : Byte × Byte :=
  (lutw c (hiNibble mw) &&& lutb c (hiNibble mb), lutw c (loNibble mw) &&& lutb c (loNibble mb))

/-- `FWD_PAIR(v)`: white pixels get CODE_WHITE (R210). -/
def fwdPair (c : Config) (v : Byte) : Byte × Byte := monoPair c (~~~v) 0

/-- `REV_PAIR(v)`: black pixels get CODE_BLACK (R210). -/
def revPair (c : Config) (v : Byte) : Byte × Byte := monoPair c 0 v

/-- `TW(new, old)`: black in PREV, white in FB1 (45 R297). -/
def toWhite (new old : Byte) : Byte := (new ^^^ old) &&& old

/-- `TB(new, old)`: white in PREV, black in FB1 (45 R297). -/
def toBlack (new old : Byte) : Byte := (new ^^^ old) &&& ~~~old

/-! ### Grayscale phase tables (42 R205) -/

/-- A waveform phase 0..8. -/
abbrev Phase := Fin 9

/-- `WAVEFORM[l][p]`. -/
def waveCode (c : Config) (l : BitVec 3) (p : Phase) : BitVec 2 := (c.waveform.get l.toFin).get p

/-- `GLUT_LO[p][b]`. -/
def glutLo (c : Config) (p : Phase) (b : Byte) : Byte :=
  ((waveCode c (b.extractLsb' 4 3) p).zeroExtend 8 <<< 2) ||| (waveCode c (b.extractLsb' 0 3) p).zeroExtend 8

/-- `GLUT_HI[p][b]`. -/
def glutHi (c : Config) (p : Phase) (b : Byte) : Byte := glutLo c p b <<< 4

/-- `GRAY_BYTE(p, a, b)`. -/
def grayByte (c : Config) (p : Phase) (a b : Byte) : Byte := glutHi c p a ||| glutLo c p b

end Sys2Proof.Machine
end

