-- ==== Sys2Proof/Machine/Ops.lean ====
section
/-! DEFINITION. The named operations over the state: the output and input primitives of 00 R13 and R14, shadow and
buffer access (00 R12), the recording of an error (60 R360-R366), and bounded repetition (60 R379). -/

namespace Sys2Proof.Machine

/-! ### Output primitives (00 R13) -/

/-- One event appended to the trace. -/
def emit (e : Event) (s : State) : State := { s with trace := s.trace ++ [e] }

def setFastOut (w : Word) (s : State) : State := { s with fastOut := w }

def setFastDir (w : Word) (s : State) : State := { s with fastDir := w }

/-- `FastSet(m)`. -/
def fastSet (m : Word) (s : State) : State := setFastOut (s.fastOut ||| m) (emit (.fset m) s)

/-- `FastClear(m)`. -/
def fastClear (m : Word) (s : State) : State := setFastOut (s.fastOut &&& ~~~m) (emit (.fclr m) s)

/-- `FastDirOut(m)`. -/
def fastDirOut (m : Word) (s : State) : State := setFastDir (s.fastDir ||| m) (emit (.fdir m) s)

/-- `ExpWrite(c, a, v)`. -/
def expWrite (c : Chip) (a : RegAddr) (v : Byte) (s : State) : State := emit (.xw c a v) s

/-- `ExpWriteBlock(c, a, bs)`. -/
def expWriteBlock (c : Chip) (a : RegAddr) (bs : List Byte) (s : State) : State := emit (.xwb c a bs) s

/-- `DelayUs(n)`. -/
def delayUs (n : Nat) (s : State) : State := emit (.dus n) s

/-- `DelayMs(n)`. -/
def delayMs (n : Nat) (s : State) : State := emit (.dms n) s

/-- `PmicWrite(a, v)`. -/
def pmicWrite (a v : Byte) (s : State) : State := emit (.pw a v) s

/-! ### Input primitives (00 R14): the answer is the next of its tape, else a free value -/

/-- The next probe answer, and the state without it. -/
def drawAck (s : State) : Bool × State :=
  match s.envAcks with
  | b :: rest => (b, { s with envAcks := rest })
  | [] => (Config.freeAck s.draws, { s with draws := s.draws + 1 })

/-- The next expander byte, and the state without it. -/
def drawExp (s : State) : Byte × State :=
  match s.envExp with
  | b :: rest => (b, { s with envExp := rest })
  | [] => (Config.freeExpByte s.draws, { s with draws := s.draws + 1 })

/-- The next PMIC byte, and the state without it. -/
def drawPmic (s : State) : Byte × State :=
  match s.envPmic with
  | b :: rest => (b, { s with envPmic := rest })
  | [] => (Config.freePmicByte s.draws, { s with draws := s.draws + 1 })

/-- `n` expander bytes in order. -/
def drawExpBytes : Nat → State → List Byte × State
  | 0, s => ([], s)
  | n + 1, s =>
    let d := drawExp s
    let r := drawExpBytes n d.2
    (d.1 :: r.1, r.2)

/-- `n` bytes that no answer gives: free values, off the tape. -/
def freeBytes : Nat → State → List Byte × State
  | 0, s => ([], s)
  | n + 1, s =>
    let r := freeBytes n { s with draws := s.draws + 1 }
    (Config.freeExpByte s.draws :: r.1, r.2)

/-- `ExpProbe(c)`. -/
def expProbe (c : Chip) (s : State) : Bool × State :=
  let d := drawAck s
  (d.1, emit (.xprobe c d.1) d.2)

/-- `ExpRead(c, a)`. -/
def expRead (c : Chip) (a : RegAddr) (s : State) : Byte × State :=
  let d := drawExp s
  (d.1, emit (.xr c a d.1) d.2)

/-- `ExpReadBlock(c, a, n)`. -/
def expReadBlock (c : Chip) (a : RegAddr) (n : Nat) (s : State) : List Byte × State :=
  let d := drawExpBytes n s
  (d.1, emit (.xrb c a n d.1) d.2)

/-- `PmicRead(a)`. -/
def pmicRead (a : Byte) (s : State) : Byte × State :=
  let d := drawPmic s
  (d.1, emit (.pr a d.1) d.2)

/-! ### Shadow registers (10 R40, R42) -/

/-- `SHADOW[c]`. -/
def shadowOf (s : State) : Chip → Vector Byte 22
  | .x0 => s.shadow0
  | .x1 => s.shadow1

/-- `SHADOW[c] <- v`, all 22 bytes. -/
def setShadow (c : Chip) (v : Vector Byte 22) (s : State) : State :=
  match c with
  | .x0 => { s with shadow0 := v }
  | .x1 => { s with shadow1 := v }

/-- `SHADOW[c][a]`. -/
def shadowGet (s : State) (c : Chip) (a : RegAddr) : Byte := (shadowOf s c).get a

/-- `SHADOW[c][a] <- v`. -/
def shadowPut (c : Chip) (a : RegAddr) (v : Byte) (s : State) : State :=
  setShadow c ((shadowOf s c).set a.val v a.isLt) s

/-- `XPRESENT[c]`. -/
def xpresent (s : State) : Chip → Bool
  | .x0 => s.xpresent0
  | .x1 => s.xpresent1

/-- `XPRESENT[c] <- b`. -/
def setXpresent (c : Chip) (b : Bool) (s : State) : State :=
  match c with
  | .x0 => { s with xpresent0 := b }
  | .x1 => { s with xpresent1 := b }

/-! ### Buffer bytes (00 R12, 20 R81-R83) -/

/-- `FB1[i]`, `PREV[i]`, `FB3[i]`. -/
def fb1Read (s : State) (i : Nat) : Byte := Memory.read monoBlank s.fb1 i
def prevRead (s : State) (i : Nat) : Byte := Memory.read monoBlank s.prev i
def fb3Read (s : State) (i : Nat) : Byte := Memory.read (grayBlank s.cfg) s.fb3 i

/-- `FB1[i] <- v`. An index outside the buffer stops the machine: the spec forms none (43 R237). -/
def fb1Write (i : Nat) (v : Byte) (s : State) : Host.Outcome State Fault Refusal :=
  if i < fb1Size s.cfg then .next { s with fb1 := Memory.write monoBlank s.fb1 i v } else .fault (.bufferIndex i)

/-- `FB3[i] <- v`, with the same check. -/
def fb3Write (i : Nat) (v : Byte) (s : State) : Host.Outcome State Fault Refusal :=
  if i < fb3Size s.cfg then .next { s with fb3 := Memory.write (grayBlank s.cfg) s.fb3 i v }
  else .fault (.bufferIndex i)

/-- `PREV[i] <- v`, inside the commit loop of 45 R296, whose indexes are below the size. -/
def prevPut (i : Nat) (v : Byte) (s : State) : State :=
  { s with prev := Memory.write monoBlank s.prev i v }

/-! ### Other named updates -/

def setPwr (p : Pwr) (s : State) : State := { s with pwr := p }

def setResult (w : Word) (s : State) : State := { s with result := w }

def setBusy (b : Bool) (s : State) : State := { s with busy := b }

/-! ### Errors: the block's whole exception mechanism (60 R360, R369) -/

/-- The code written to `LAST_ERR` (60 R360). -/
def ErrCode.num : ErrCode → BitVec 4
  | .reservedOpcode => 1
  | .reservedField => 2
  | .busy => 3
  | .corePin => 4
  | .noPower => 5
  | .pgTimeout => 6
  | .absent => 7

/-- The one flag the table of R360 names, set. -/
def setErrFlag (e : ErrCode) (s : State) : State :=
  match e with
  | .reservedOpcode => { s with errCmd := true }
  | .reservedField => { s with errCmd := true }
  | .busy => { s with errCmd := true }
  | .corePin => { s with errCmd := true }
  | .noPower => { s with errNopwr := true }
  | .pgTimeout => { s with pwrFail := true }
  | .absent => { s with fault := true }

/-- An error occurs: its flag and its code are recorded, and nothing else (60 R360, R361, R365, R366, R369). There
is no saved state, no transfer of control and no return (R369, R370); only RESET clears `FAULT`. -/
def recordError (e : ErrCode) (s : State) : State := { setErrFlag e s with lastErr := e.num }

/-! ### Bounded repetition (60 R379) -/

/-- `for k in 0 .. n - 1: f k`, ascending. -/
def forUpTo : Nat → (Nat → State → State) → State → State
  | 0, _, s => s
  | n + 1, f, s => f n (forUpTo n f s)

end Sys2Proof.Machine
end

