-- ==== Sys2Proof/Machine/Operands.lean ====
section
/-! DEFINITION. What the operands of the commands name: the pixel of SETPIX (43 R230, R231; 20 R81, R82), the pin of
the pin commands (41 R171), the drive byte of a bus word (45 R293). -/

namespace Sys2Proof.Machine

/-! ### Pixels -/

/-- The logical extent (LW, LH) of a rotation (43 R230): the panel's for 0 and 180 degrees, transposed otherwise. -/
def logicalExtent (c : Config) (r : BitVec 2) : Nat × Nat :=
  match r with
  | 0 => (c.w, c.h)
  | 1 => (c.h, c.w)
  | 2 => (c.w, c.h)
  | 3 => (c.h, c.w)

/-- The range check of SETPIX, on the logical coordinates (43 R231, 92 D13). -/
def inExtent (c : Config) (r : BitVec 2) (x y : Int) : Bool :=
  decide (0 ≤ x) && decide (0 ≤ y) && decide (x < (logicalExtent c r).1) && decide (y < (logicalExtent c r).2)

/-- `ROTATE(r, x, y)` on mathematical integers (43 R230). -/
def rotate (c : Config) (r : BitVec 2) (x y : Int) : Int × Int :=
  match r with
  | 0 => (x, y)
  | 1 => ((c.w : Int) - 1 - y, x)
  | 2 => ((c.w : Int) - 1 - x, (c.h : Int) - 1 - y)
  | 3 => (y, (c.h : Int) - 1 - x)

/-- The physical pixel of a logical point inside the extent. -/
def physicalPixel (c : Config) (r : BitVec 2) (x y : Int) : Nat × Nat :=
  ((rotate c r x y).1.toNat, (rotate c r x y).2.toNat)

/-- The byte of `FB1` that holds physical pixel (px, py) (20 R81). -/
def fb1Index (c : Config) (px py : Nat) : Nat := py * (c.w / 8) + px / 8

/-- The mask of that pixel's bit, `1 << (7 - px mod 8)`: the leftmost pixel is the most significant bit (20 R81). -/
def pixelMask (px : Nat) : Byte := (1 : Byte) <<< (7 - px % 8)

/-- The byte of `FB3` that holds physical pixel (px, py) (20 R82). -/
def fb3Index (c : Config) (px py : Nat) : Nat := py * (c.w / 2) + px / 2

/-- A byte of `FB1` with one pixel set black (v nonzero) or white (30 R118, 43 R231). -/
def putMonoPixel (old : Byte) (px : Nat) (v : BitVec 3) : Byte :=
  if v ≠ 0 then old ||| pixelMask px else old &&& ~~~(pixelMask px)

/-- A byte of `FB3` with one nibble set to the level v: bits [7:4] for an even px, [3:0] for an odd one (43 R231). -/
def putGrayPixel (old : Byte) (px : Nat) (v : BitVec 3) : Byte :=
  if px % 2 = 0 then (old &&& 0x0F) ||| (v.zeroExtend 8 <<< 4) else (old &&& 0xF0) ||| v.zeroExtend 8

/-! ### Pins (41 R171) -/

/-- The port of a pin: 0 = A, 1 = B. -/
def pinPort (p : Pin) : Nat := p.val / 8

/-- The mask of a pin in its port's registers. -/
def pinMask (p : Pin) : Byte := (1 : Byte) <<< (p.val % 8)

/-- `IODIR[port]`, `GPPU[port]`, `GPIO[port]`, `OLAT[port]` of a pin's port. -/
def iodirOf (p : Pin) : RegAddr := ⟨0x00 + p.val / 8, by omega⟩
def gppuOf (p : Pin) : RegAddr := ⟨0x0C + p.val / 8, by omega⟩
def gpioOf (p : Pin) : RegAddr := ⟨0x12 + p.val / 8, by omega⟩
def olatOf (p : Pin) : RegAddr := ⟨0x14 + p.val / 8, by omega⟩

/-- The core signals of expander 0 (41 R176). -/
inductive CoreSig where
  | oe
  | gmod
  | spv
  | wakeup
  | pwrup
  | vcom
  deriving DecidableEq, Repr

/-- `PIN_sig`. -/
def corePin (c : Config) : CoreSig → Pin
  | .oe => c.pinOe
  | .gmod => c.pinGmod
  | .spv => c.pinSpv
  | .wakeup => c.pinWakeup
  | .pwrup => c.pinPwrup
  | .vcom => c.pinVcom

/-- `c = 0 and p in CORE_PINS` (41 R172, R173). -/
def namesCorePin (cfg : Config) (c : Chip) (p : Pin) : Bool :=
  decide (c = .x0) && (corePins cfg).contains p

/-! ### Drive bytes of a bus word (45 R293) -/

/-- `i(y, k)`: the FB1 / PREV byte of bus word k of row y. -/
def monoWordIndex (c : Config) (y k : Nat) : Nat := y * (c.w / 8) + k / 2

/-- The index of the first of the two FB3 bytes of bus word k of row y. -/
def grayWordIndex (c : Config) (y k : Nat) : Nat := y * (c.w / 2) + 2 * k

/-- `half(pair, k)`: high nibble first. -/
def half (pair : Byte × Byte) (k : Nat) : Byte := if k % 2 = 0 then pair.1 else pair.2

/-- A word source: the drive byte of word k of row y. -/
abbrev WordSource := Nat → Nat → Byte

/-- `B_FWD`. -/
def bFwd (s : State) : WordSource := fun y k => half (fwdPair s.cfg (fb1Read s (monoWordIndex s.cfg y k))) k

/-- `B_REV`. -/
def bRev (s : State) : WordSource := fun y k => half (revPair s.cfg (fb1Read s (monoWordIndex s.cfg y k))) k

/-- `B_DIFF`: the comparator's drive byte (45 R297). -/
def bDiff (s : State) : WordSource := fun y k =>
  let i := monoWordIndex s.cfg y k
  half (monoPair s.cfg (toWhite (fb1Read s i) (prevRead s i)) (toBlack (fb1Read s i) (prevRead s i))) k

/-- `B_GRAY_p`. -/
def bGray (p : Phase) (s : State) : WordSource := fun y k =>
  let i := grayWordIndex s.cfg y k
  grayByte s.cfg p (fb3Read s i) (fb3Read s (i + 1))

/-- The word source of a clean pass (44 R269). -/
def bClean (code : BitVec 2) (_ : State) : WordSource := fun _ _ => cleanByte code

end Sys2Proof.Machine
end

