-- ==== Sys2Proof/Machine/Framebuffer.lean ====
section
/-! DEFINITION. The framebuffer commands (43_framebuffer): none emits an event or touches a device. -/

namespace Sys2Proof.Machine

/-- SETPIX (43 R231): a point outside the logical extent is discarded without an error. -/
def execSetpix (x y : Int) (v : BitVec 3) (s : State) : Host.Outcome State Fault Refusal :=
  if inExtent s.cfg s.rot x y then
    let p := physicalPixel s.cfg s.rot x y
    match s.mode with
    | .mono =>
      let i := fb1Index s.cfg p.1 p.2
      fb1Write i (putMonoPixel (fb1Read s i) p.1 v) s
    | .gray =>
      let i := fb3Index s.cfg p.1 p.2
      fb3Write i (putGrayPixel (fb3Read s i) p.1 v) s
  else .next s

/-- CLEAR (43 R232): every byte of the active buffer takes its blank value, which an unlisted byte reads as. -/
def clearCmd (s : State) : State :=
  match s.mode with
  | .mono => { s with fb1 := [] }
  | .gray => { s with fb3 := [] }

/-- SETMODE (43 R233): a change of mode blanks all three buffers and marks the history invalid. -/
def setmodeCmd (m : Mode) (s : State) : State :=
  if m = s.mode then s else { s with fb1 := [], prev := [], fb3 := [], forcedFull := true, mode := m }

/-- The meaning of CLEAR. -/
def execClear (s : State) : Host.Outcome State Fault Refusal := .next (clearCmd s)

/-- The meaning of SETMODE. -/
def execSetmode (m : Mode) (s : State) : Host.Outcome State Fault Refusal := .next (setmodeCmd m s)

/-- The meaning of SETROT (43 R234). -/
def execSetrot (r : BitVec 2) (s : State) : Host.Outcome State Fault Refusal := .next { s with rot := r }

end Sys2Proof.Machine
end

