-- ==== Sys2Proof/Machine/HostCmd.lean ====
section
/-! DEFINITION. NOP and the reserved opcode space (40 R152, 30 R121). -/

namespace Sys2Proof.Machine

/-- NOP: no effect (40 R152). -/
def execNop (s : State) : Host.Outcome State Fault Refusal := .next s

/-- A reserved opcode: ignored with code 1, whatever cmd[30:0] is (30 R121, 60 R361). -/
def execReserved (_ : BitVec 31) (s : State) : Host.Outcome State Fault Refusal :=
  .next (recordError .reservedOpcode s)

end Sys2Proof.Machine
end

