-- ==== Sys2Proof/Machine/Flags.lean ====
section
/-! DEFINITION. The host-visible register words computed from the state (10 R46-R48). -/

namespace Sys2Proof.Machine

/-- A flag at bit `n` of a word. -/
def bitAt (n : Nat) (b : Bool) : Word := (BitVec.ofBool b).zeroExtend 32 <<< n

/-- MODE as STATUS shows it: 0 = MONO, 1 = GRAY (10 R32). -/
def modeBit : Mode → Bool
  | .mono => false
  | .gray => true

/-- `STATUS`, a pure function of the state (10 R48). Bits [31:16] read 0. -/
def status (s : State) : Word :=
  (s.lastErr.zeroExtend 32 <<< 12) ||| bitAt 11 s.fault ||| bitAt 10 s.busy ||| bitAt 9 s.errNopwr |||
  bitAt 8 s.errCmd ||| bitAt 7 s.pwrFail ||| bitAt 6 s.xpresent1 ||| bitAt 5 s.xpresent0 |||
  bitAt 4 s.forcedFull ||| (s.rot.zeroExtend 32 <<< 2) ||| bitAt 1 (modeBit s.mode) |||
  bitAt 0 (decide (s.pwr = .on))

/-- The value PINREAD leaves in RESULT: bit (p & 7) of the byte read, zero-extended (41 R174). -/
def pinLevelWord (v : Byte) (p : Pin) : Word := ((v >>> (p.val % 8)) &&& 1).zeroExtend 32

end Sys2Proof.Machine
end

