-- ==== Sys2Proof/Machine/Pins.lean ====
section
/-! DEFINITION. The control-signal port: shadow updates and the pin commands (41_shadow_pins). -/

namespace Sys2Proof.Machine

/-- One pair of SHADOW_SET: a byte that changes is put into the shadow and pushed to the chip (41 R175). -/
def shadowSet1 (c : Chip) (a : RegAddr) (v : Byte) (s : State) : State :=
  if shadowGet s c a = v then s else expWrite c a v (shadowPut c a v s)

/-- `SHADOW_SET(c, updates)` (41 R175). -/
def shadowSet (c : Chip) (updates : List (RegAddr × Byte)) (s : State) : State :=
  updates.foldl (fun s u => shadowSet1 c u.1 u.2 s) s

/-- `PIN_OUT_SET(c, p, l)` (41 R176). -/
def pinOutSet (c : Chip) (p : Pin) (l : Bool) (s : State) : State :=
  let o := shadowGet s c (olatOf p)
  shadowSet c [(olatOf p, if l then o ||| pinMask p else o &&& ~~~(pinMask p))] s

/-- The new IODIR and GPPU bytes of PIN_MODE_SET (41 R178). -/
def pinModeBytes (mode : PinMode) (m dir pu : Byte) : Byte × Byte :=
  match mode with
  | .input => (dir ||| m, pu &&& ~~~m)
  | .output => (dir &&& ~~~m, pu &&& ~~~m)
  | .inputPullup => (dir ||| m, pu ||| m)

/-- `PIN_MODE_SET(c, p, mode)` (41 R178). -/
def pinModeSet (c : Chip) (p : Pin) (mode : PinMode) (s : State) : State :=
  let new := pinModeBytes mode (pinMask p) (shadowGet s c (iodirOf p)) (shadowGet s c (gppuOf p))
  shadowSet c [(iodirOf p, new.1), (gppuOf p, new.2)] s

/-- `CORE_SET(sig, l)` (41 R176). -/
def coreSet (sig : CoreSig) (l : Bool) (s : State) : State := pinOutSet .x0 (corePin s.cfg sig) l s

/-- `CORE_OUT(sig)` (41 R178). -/
def coreOut (sig : CoreSig) (s : State) : State := pinModeSet .x0 (corePin s.cfg sig) .output s

/-- PINMODE (41 R172). -/
def pinmodeCmd (c : Chip) (p : Pin) (mode : PinMode) (s : State) : State :=
  if namesCorePin s.cfg c p then recordError .corePin s
  else if xpresent s c then pinModeSet c p mode s
  else recordError .absent s

/-- PINWRITE (41 R173). -/
def pinwriteCmd (c : Chip) (p : Pin) (l : Bool) (s : State) : State :=
  if namesCorePin s.cfg c p then recordError .corePin s
  else if xpresent s c then pinOutSet c p l s
  else recordError .absent s

/-- PINREAD (41 R174). -/
def pinreadCmd (c : Chip) (p : Pin) (s : State) : State :=
  if xpresent s c then
    let r := expRead c (gpioOf p) s
    setResult (pinLevelWord r.1 p) (shadowPut c (gpioOf p) r.1 r.2)
  else recordError .absent s

/-- The meaning of PINMODE. -/
def execPinmode (c : Chip) (p : Pin) (mode : PinMode) (s : State) : Host.Outcome State Fault Refusal :=
  .next (pinmodeCmd c p mode s)

/-- The meaning of PINWRITE. -/
def execPinwrite (c : Chip) (p : Pin) (level : Bool) (s : State) : Host.Outcome State Fault Refusal :=
  .next (pinwriteCmd c p level s)

/-- The meaning of PINREAD. -/
def execPinread (c : Chip) (p : Pin) (s : State) : Host.Outcome State Fault Refusal :=
  .next (pinreadCmd c p s)

end Sys2Proof.Machine
end

