-- ==== Sys2Proof/Machine/Power.lean ====
section
/-! DEFINITION. The power-sequencing state machine (46_power). -/

namespace Sys2Proof.Machine

/-- `PG_GOOD(v)` (46 R332). -/
def pgGood (c : Config) (v : Byte) : Bool := decide (v &&& c.pgMask = c.pgValue)

/-- `PG_CLEARED(v)` (46 R332). -/
def pgCleared (c : Config) (v : Byte) : Bool := decide (v &&& c.pgMask = 0)

/-- `PG_POLL(pred)` with `n` polls left: a 1 ms delay and one read each, until pred holds (46 R332). -/
def pgPoll (pred : Byte → Bool) : Nat → State → Bool × State
  | 0, s => (false, s)
  | n + 1, s =>
    let r := pmicRead s.cfg.pgReg (delayMs pgPollMs s)
    if pred r.1 then (true, r.2) else pgPoll pred n r.2

/-- The steps of POWER_ON_SEQ up to the poll (46 R331). -/
def powerOnSetup (s : State) : State :=
  let c := s.cfg
  s |> setPwr .enabling
    |> coreOut .wakeup |> coreOut .pwrup |> coreOut .vcom
    |> coreSet .wakeup true |> delayMs c.wakeDelayMs
    |> coreSet .pwrup true
    |> pmicWrite c.pmicEnReg c.pmicEnVal
    |> coreOut .oe |> coreOut .gmod |> coreOut .spv
    |> fastDirOut (panelMask c)
    |> fastClear (dataMask c ||| clMask c ||| leMask c ||| ckvMask c)
    |> fastSet (sphMask c)
    |> coreSet .oe false |> coreSet .gmod true |> coreSet .spv true
    |> coreSet .vcom true

/-- The steps of POWER_ON_SEQ after power-good was seen (46 R331). -/
def powerOnFinish (s : State) : State :=
  { (s |> coreSet .oe true |> setPwr .on) with pwrFail := false }

/-- `POWER_ON_ABORT` (46 R333). -/
def powerOnAbort (s : State) : State :=
  s |> coreSet .wakeup false |> coreSet .vcom false |> coreSet .pwrup false
    |> coreSet .oe false |> coreSet .gmod false |> coreSet .spv false
    |> fastClear (panelMask s.cfg)
    |> setPwr .off
    |> recordError .pgTimeout

/-- `POWER_ON_SEQ` (46 R331). A fault leaves `PWR` other than ON, so the command that ran the sequence ends there. -/
def powerOnSeq (s : State) : State :=
  if s.pwr = .on then s
  else if s.xpresent0 then
    let r := pgPoll (pgGood s.cfg) pgTimeoutMs (powerOnSetup s)
    if r.1 then powerOnFinish r.2 else powerOnAbort r.2
  else recordError .absent s

/-- The steps of POWER_OFF_SEQ up to the poll (46 R334). -/
def powerOffSetup (s : State) : State :=
  let c := s.cfg
  s |> setPwr .disabling
    |> coreSet .oe false |> coreSet .gmod false |> coreSet .spv false
    |> fastClear (ckvMask c ||| sphMask c)
    |> fastClear (dataMask c ||| clMask c ||| leMask c)
    |> coreSet .vcom false
    |> delayMs c.offSettleMs
    |> coreSet .pwrup false |> coreSet .wakeup false

/-- `POWER_OFF_SEQ` (46 R334): the poll's result is ignored. -/
def powerOffSeq (s : State) : State :=
  if s.pwr = .off then s
  else if s.xpresent0 then
    setPwr .off (pgPoll (pgCleared s.cfg) pgTimeoutMs (powerOffSetup s)).2
  else recordError .absent s

/-- The meaning of PWRON (46 R330). -/
def execPwron (s : State) : Host.Outcome State Fault Refusal := .next (powerOnSeq s)

/-- The meaning of PWROFF (46 R335). -/
def execPwroff (s : State) : Host.Outcome State Fault Refusal := .next (powerOffSeq s)

end Sys2Proof.Machine
end

