-- ==== Sys2Proof/Machine/Scan.lean ====
section
/-! DEFINITION. The scan-line timing sequencer (44_scan): the four primitives, the raw scan commands, passes and
clean passes. -/

namespace Sys2Proof.Machine

/-- `VSCAN_START_SEQ` (44 R260). -/
def vscanStartSeq (s : State) : State :=
  let ckv := ckvMask s.cfg
  let t := s.cfg.vsT
  s |> fastSet ckv |> delayUs t[0]
    |> coreSet .spv false |> delayUs t[1]
    |> fastClear ckv |> delayUs t[2]
    |> fastSet ckv |> delayUs t[3]
    |> coreSet .spv true |> delayUs t[4]
    |> fastClear ckv |> delayUs t[5]
    |> fastSet ckv |> delayUs t[6]
    |> fastClear ckv |> delayUs t[7]
    |> fastSet ckv |> delayUs t[8]
    |> fastClear ckv |> delayUs t[9]
    |> fastSet ckv

/-- `COLUMN_WRITE(d)` (44 R262). -/
def columnWrite (d : Byte) (s : State) : State :=
  s |> fastSet (pinlut s.cfg d ||| clMask s.cfg) |> fastClear (dataMask s.cfg ||| clMask s.cfg)

/-- `HSCAN_START_SEQ(d)` (44 R261). -/
def hscanStartSeq (d : Byte) (s : State) : State :=
  s |> fastClear (sphMask s.cfg)
    |> fastSet (pinlut s.cfg d ||| clMask s.cfg)
    |> fastClear (dataMask s.cfg ||| clMask s.cfg)
    |> fastSet (sphMask s.cfg)
    |> fastSet (ckvMask s.cfg)

/-- `VSCAN_END_SEQ` (44 R263). -/
def vscanEndSeq (s : State) : State :=
  s |> fastClear (ckvMask s.cfg) |> fastSet (leMask s.cfg) |> fastClear (leMask s.cfg)

/-! ### Passes (44 R268, R269) -/

/-- One row of a pass: the first word through HSCAN_START, words 1 .. W/4 - 1 through column writes. -/
def scanRow (b : WordSource) (y : Nat) (s : State) : State :=
  s |> hscanStartSeq (b y 0)
    |> forUpTo (wordsPerRow s.cfg - 1) (fun k => columnWrite (b y (k + 1)))
    |> vscanEndSeq

/-- `PASS(B)` (44 R268). -/
def pass (b : WordSource) (s : State) : State :=
  s |> vscanStartSeq |> forUpTo s.cfg.h (scanRow b) |> delayUs s.cfg.passDelayUs

/-- `repeat n times: PASS(B)`, each pass reading its words from the state at its own start (45 R293). -/
def repeatPass (n : Nat) (b : State → WordSource) (s : State) : State := forUpTo n (fun _ s => pass (b s) s) s

/-- `CLEAN(c, rep)` (44 R269). -/
def clean (code : BitVec 2) (rep : Nat) (s : State) : State := repeatPass rep (bClean code) s

/-- `CLEAN_LIST(L)` (44 R269). -/
def cleanList (l : List (BitVec 2 × Nat)) (s : State) : State := l.foldl (fun s e => clean e.1 e.2 s) s

/-! ### Raw scan commands (44 R264-R267) -/

/-- VSTART: power is checked before presence (44 R264, 60 R367). -/
def vstartCmd (s : State) : State :=
  if s.pwr = .on then
    if s.xpresent0 then vscanStartSeq s else recordError .absent s
  else recordError .noPower s

/-- HSTART (44 R265). -/
def hstartCmd (d : Byte) (s : State) : State :=
  if s.pwr = .on then hscanStartSeq d s else recordError .noPower s

/-- HDATA (44 R266). -/
def hdataCmd (d : Byte) (s : State) : State :=
  if s.pwr = .on then columnWrite d s else recordError .noPower s

/-- VEND (44 R267). -/
def vendCmd (s : State) : State :=
  if s.pwr = .on then vscanEndSeq s else recordError .noPower s

/-- The meaning of VSTART. -/
def execVstart (s : State) : Host.Outcome State Fault Refusal := .next (vstartCmd s)

/-- The meaning of HSTART. -/
def execHstart (d : Byte) (s : State) : Host.Outcome State Fault Refusal := .next (hstartCmd d s)

/-- The meaning of HDATA. -/
def execHdata (d : Byte) (s : State) : Host.Outcome State Fault Refusal := .next (hdataCmd d s)

/-- The meaning of VEND. -/
def execVend (s : State) : Host.Outcome State Fault Refusal := .next (vendCmd s)

end Sys2Proof.Machine
end

