-- ==== Sys2Proof/Machine/Refresh.lean ====
section
/-! DEFINITION. The refresh commands and the differential-refresh commit (45_refresh). -/

namespace Sys2Proof.Machine

/-- The commit of a full 1-bit refresh: `PREV[i] <- FB1[i]` for every i, and `FORCED_FULL <- 0` (45 R291). -/
def commitFull (s : State) : State := { s with prev := s.fb1, forcedFull := false }

/-- The commit of a partial refresh: `PREV[i] <- (PREV[i] & FB1[i]) | FB1[i]` for every i (45 R296, R298). -/
def commitPartial (s : State) : State :=
  forUpTo (fb1Size s.cfg)
    (fun i s => prevPut i ((prevRead s i &&& fb1Read s i) ||| fb1Read s i) s) s

/-- What FULL_MONO_SEQ does once power is on (45 R291). -/
def fullMonoBody (s : State) : State :=
  s |> cleanList s.cfg.fullPreamble
    |> repeatPass fullFwdRepeat bFwd
    |> repeatPass fullRevRepeat bRev
    |> commitFull
    |> cleanList (cleanTail s.cfg)
    |> powerOffSeq

/-- The nine waveform phases in order. -/
def phases : List Phase := [0, 1, 2, 3, 4, 5, 6, 7, 8]

/-- The phase passes of a grayscale refresh (45 R292). -/
def grayPasses (s : State) : State := phases.foldl (fun s p => pass (bGray p s) s) s

/-- What GRAY_SEQ does once power is on (45 R292). -/
def grayBody (s : State) : State :=
  s |> cleanList s.cfg.fullPreamble |> grayPasses |> cleanList s.cfg.grayTail |> powerOffSeq

/-- What PARTIAL_SEQ does once power is on (45 R296). -/
def partialBody (s : State) : State :=
  s |> repeatPass partialRepeat bDiff |> commitPartial |> cleanList (cleanTail s.cfg) |> powerOffSeq

/-- A refresh sequence: power on, then the body only if the panel is ON (45 R291, R292, R294, R296; 46 R339). -/
def poweredRefresh (body : State → State) (s : State) : State :=
  let t := powerOnSeq s
  if t.pwr = .on then body t else t

/-- `FULL_MONO_SEQ`, `GRAY_SEQ`, `PARTIAL_SEQ`. -/
def fullMonoSeq (s : State) : State := poweredRefresh fullMonoBody s
def graySeq (s : State) : State := poweredRefresh grayBody s
def partialSeq (s : State) : State := poweredRefresh partialBody s

/-- DISPLAY (45 R290). -/
def displayCmd (s : State) : State :=
  match s.mode with
  | .mono => fullMonoSeq s
  | .gray => graySeq s

/-- PARTIAL (45 R295): nothing in GRAY; the full path when the history is invalid. -/
def partialCmd (s : State) : State :=
  match s.mode with
  | .gray => s
  | .mono => if s.forcedFull then fullMonoSeq s else partialSeq s

/-- The meaning of DISPLAY. -/
def execDisplay (s : State) : Host.Outcome State Fault Refusal := .next (displayCmd s)

/-- The meaning of PARTIAL. -/
def execPartial (s : State) : Host.Outcome State Fault Refusal := .next (partialCmd s)

end Sys2Proof.Machine
end

