-- ==== Sys2Proof/Machine/Dispatch.lean ====
section
/-! DEFINITION. The meaning of each command: `execute(Command(mnemonic, operands))` of 40 R151. -/

namespace Sys2Proof.Machine

def exec (i : Instr) (s : State) : Host.Outcome State Fault Refusal :=
  match i with
  | .nop => Sys2Proof.Machine.execNop s
  | .setpix x y v => Sys2Proof.Machine.execSetpix x y v s
  | .clear => Sys2Proof.Machine.execClear s
  | .setmode m => Sys2Proof.Machine.execSetmode m s
  | .setrot r => Sys2Proof.Machine.execSetrot r s
  | .display => Sys2Proof.Machine.execDisplay s
  | .partialRefresh => Sys2Proof.Machine.execPartial s
  | .pwron => Sys2Proof.Machine.execPwron s
  | .pwroff => Sys2Proof.Machine.execPwroff s
  | .vstart => Sys2Proof.Machine.execVstart s
  | .hstart d => Sys2Proof.Machine.execHstart d s
  | .hdata d => Sys2Proof.Machine.execHdata d s
  | .vend => Sys2Proof.Machine.execVend s
  | .pinmode c p mode => Sys2Proof.Machine.execPinmode c p mode s
  | .pinwrite c p level => Sys2Proof.Machine.execPinwrite c p level s
  | .pinread c p => Sys2Proof.Machine.execPinread c p s
  | .reserved low => Sys2Proof.Machine.execReserved low s

end Sys2Proof.Machine
end

