-- ==== Sys2Proof/Machine/Reset.lean ====
section
/-! DEFINITION. The reset sequence (70 R390) and the expander initialisation (41 R170). -/

namespace Sys2Proof.Machine

/-- The 22 bytes of a block read as a register image. -/
def imageOf (bs : List Byte) : Vector Byte 22 := Vector.ofFn fun a : Fin 22 => bs.getD a.val 0

/-- The image with both direction bytes forced to "all input" (41 R170). -/
def forceInputs (v : Vector Byte 22) : Vector Byte 22 := (v.set 0 0xFF).set 1 0xFF

/-- `EXPANDER_INIT(c)` (41 R170). The shadow of an expander that does not acknowledge is unspecified (10 R40, 70
R391, 93 U2): it takes free values. -/
def expanderInit (c : Chip) (s : State) : State :=
  let p := expProbe c s
  if p.1 then
    let r := expReadBlock c 0 22 p.2
    let image := forceInputs (imageOf r.1)
    r.2 |> setShadow c image |> expWriteBlock c 0 image.toList |> setXpresent c true
  else
    let r := freeBytes 22 p.2
    r.2 |> setShadow c (imageOf r.1) |> setXpresent c false

/-- The state fields RESET sets before the expander initialisation; `BUSY` is 1 and the trace is new (70 R390). The
tables need no building (42 R212). -/
def resetFields (s : State) : State :=
  { s with
    busy := true
    trace := []
    pwrFail := false
    errCmd := false
    errNopwr := false
    fault := false
    lastErr := 0
    result := 0
    mode := s.cfg.resetMode
    rot := 0
    forcedFull := false
    pwr := .off
    fb1 := []
    prev := []
    fb3 := []
    fastOut := 0
    fastDir := 0 }

/-- `RESET` (70 R390). -/
def resetSeq (s : State) : State :=
  s |> resetFields |> expanderInit .x0 |> expanderInit .x1 |> setBusy false

end Sys2Proof.Machine
end

