-- ==== Sys2Proof/Machine/HostPort.lean ====
section
/-! DEFINITION. The host's side of the block: the register window (40 R150, R153; 20 R86) and the reset input. -/

namespace Sys2Proof.Machine

/-- The end of a command: `BUSY <- 0` (40 R150, R151). -/
def endCommand (o : Host.Outcome State Fault Refusal) : Host.Outcome State Fault Refusal :=
  match o with
  | .next s => .next (setBusy false s)
  | .fault r => .fault r
  | .refused r => .refused r

/-- `execute(decode(v))` (40 R151): a rejected word records code 2 (30 R122, 60 R361). -/
def execute (d : Decoded) (s : State) : Host.Outcome State Fault Refusal :=
  match d with
  | .command i => exec i s
  | .rejected _ => .next (recordError .reservedField s)

/-- `on_cmd_write(v)` (40 R150). -/
def onCmdWrite (v : Word) (s : State) : Host.Outcome State Fault Refusal :=
  if s.fault then .next s
  else if s.busy then .next (recordError .busy s)
  else endCommand (execute (decode v) (setBusy true s))

/-- The registers of the window that the block decodes (20 R80, R86). -/
inductive HostReg where
  | cmd
  | status
  | result
  deriving DecidableEq, Repr

/-- "the block decodes only 32-bit accesses whose address is REG_BASE + 0x0, + 0x4 or + 0x8" (20 R86). -/
def hostReg (c : Config) (addr bits : Nat) : Option HostReg :=
  if bits = 32 then
    if addr = c.regBase then some .cmd
    else if addr = c.regBase + 4 then some .status
    else if addr = c.regBase + 8 then some .result
    else none
  else none

/-- What a host read of a register returns (10 R45-R48, 40 R153). -/
def hostReadValue (r : HostReg) (s : State) : Word :=
  match r with
  | .cmd => 0
  | .status => status s
  | .result => s.result

/-- A host write: CMD starts a command, STATUS and RESULT ignore it, no other access is decoded (20 R86). -/
def hostWrite (addr bits : Nat) (v : Word) (s : State) : Host.Outcome State Fault Refusal :=
  match hostReg s.cfg addr bits with
  | some .cmd => onCmdWrite v s
  | some .status => .next s
  | some .result => .next s
  | none => .refused .undecodedAccess

/-- A host read: it changes no state of the block (40 R153). -/
def hostRead (addr bits : Nat) (s : State) : Host.Outcome State Fault Refusal :=
  match hostReg s.cfg addr bits with
  | some r => .next { s with readData := hostReadValue r s }
  | none => .refused .undecodedAccess

/-- One host action (70 R411). -/
def hostAction (a : HostInput) (s : State) : Host.Outcome State Fault Refusal :=
  match a with
  | .write addr bits v => hostWrite addr bits v s
  | .read addr bits => hostRead addr bits s
  | .reset => .next (resetSeq s)

/-- The next host action, taken from the front of the list; with none the block is idle (60 R377, 70 R394). -/
def runHost (s : State) : Host.Outcome State Fault Refusal :=
  match s.hostIn with
  | [] => .next s
  | a :: rest => hostAction a { s with hostIn := rest }

/-- A word written to CMD, put in front of the host's actions: the next step takes it. -/
def pushCommand (v : Word) (s : State) : State :=
  { s with hostIn := .write s.cfg.regBase 32 v :: s.hostIn }

end Sys2Proof.Machine
end

