-- ==== Sys2Proof/Machine/Step.lean ====
section
/-! DEFINITION. One step of the block: the next action of the host, handled to its end (00 R7, 40 R150). -/

namespace Sys2Proof.Machine

/-- One step. A configuration that breaks 00 R10 is refused. -/
def step (s : State) : Host.Outcome State Fault Refusal :=
  if configOk s.cfg then runHost s else .refused .badConfig

/-- The block fetches nothing (10 R31): its next instruction is the word the host writes to CMD next, so this puts
that write in front of the host's actions. -/
def State.withFetchWord (s : State) (nbits w : Nat) : State := pushCommand (tableWord nbits w) s

end Sys2Proof.Machine
end

