-- ==== Sys2Proof/Safety.lean ====
section
/-! DEFINITION. The terms in which claims speak: the environment's answers by number, what a pixel and a pin show, the
sequences of 44 to 46 as flat lists and the events they show, frames, runs and the launch premises of 70 R413, and the
invariants of the block between commands. -/

namespace Sys2Proof.Machine

/-! ### Encodings -/

/-- R122's reserved bits and values, read off the formats R111-R116, for a word whose opcode is defined. -/
def ReservedFieldWord (w : Word) : Prop :=
  let op := (field w 27 5).toNat
  (op ∈ [0x00, 0x02, 0x05, 0x06, 0x07, 0x08, 0x09, 0x0C] ∧ field w 0 27 ≠ 0) ∨
  (op = 0x03 ∧ field w 1 26 ≠ 0) ∨
  (op = 0x04 ∧ field w 2 25 ≠ 0) ∨
  (op ∈ [0x0A, 0x0B] ∧ field w 8 19 ≠ 0) ∨
  (op = 0x0D ∧ (field w 2 20 ≠ 0 ∨ field w 0 2 = 3)) ∨
  (op = 0x0E ∧ field w 1 21 ≠ 0) ∨
  (op = 0x0F ∧ field w 0 22 ≠ 0)

/-! ### Environment answers (00 R14) -/

/-- The n-th PMIC answer from state `s` on: from the tape, then the free values. -/
def pmicAnswer (s : State) (n : Nat) : Byte :=
  match s.envPmic[n]? with
  | some v => v
  | none => Config.freePmicByte (s.draws + (n - s.envPmic.length))

/-- The next expander byte. -/
def expAnswer (s : State) : Byte := (drawExp s).1

/-! ### What a pixel and a pin show -/

/-- The bit of physical pixel (px, py) in `FB1`: true = black (20 R81). -/
def monoPixel (s : State) (px py : Nat) : Bool :=
  (fb1Read s (fb1Index s.cfg px py)).getLsbD (7 - px % 8)

/-- The bit of physical pixel (px, py) in `PREV`, whose layout is that of `FB1` (20 R83). -/
def prevPixel (s : State) (px py : Nat) : Bool :=
  (prevRead s (fb1Index s.cfg px py)).getLsbD (7 - px % 8)

/-- The nibble of physical pixel (px, py) in `FB3`: bits [7:4] for an even px (20 R82). -/
def grayPixel (s : State) (px py : Nat) : BitVec 4 :=
  if px % 2 = 0 then hiNibble (fb3Read s (fb3Index s.cfg px py)) else loNibble (fb3Read s (fb3Index s.cfg px py))

/-- The bit of a pin in a register of its expander. -/
def pinBitIn (s : State) (c : Chip) (a : RegAddr) (p : Pin) : Bool := (shadowGet s c a).getLsbD (p.val % 8)

/-- The pin's direction bit (true = input), pull-up bit and output latch. -/
def pinIsInput (s : State) (c : Chip) (p : Pin) : Bool := pinBitIn s c (iodirOf p) p
def pinPullup (s : State) (c : Chip) (p : Pin) : Bool := pinBitIn s c (gppuOf p) p
def pinLatch (s : State) (c : Chip) (p : Pin) : Bool := pinBitIn s c (olatOf p) p

/-- SPV is high: the idle level of 46 R331. -/
def SpvHigh (s : State) : Prop := pinLatch s .x0 s.cfg.pinSpv = true

/-- Idle levels of a pass (44 R271): CKV, CL, LE and the data lanes low, SPH and SPV high. -/
def IdleLevels (s : State) : Prop :=
  s.fastOut &&& panelMask s.cfg = sphMask s.cfg ∧ SpvHigh s

/-- How many events one pass that starts with SPV high emits (44 R270). -/
def passLength (c : Config) : Nat := 22 + c.h * (c.w / 2 + 6)

/-- The events of one EXPANDER_INIT whose probe answered `ack` and whose block read, if any, answered `b` (41 R170). -/
def initEventsFor (c : Chip) (ack : Bool) (b : List Byte) : List Event :=
  if ack then [.xprobe c true, .xrb c 0 22 b, .xwb c 0 (0xFF :: 0xFF :: b.drop 2)] else [.xprobe c false]

/-! ### Frames -/

/-- `t` is `s` but for what the panel drive may change: the shadow of expander 0, the fast port, the power state, its
failure flag and code, the trace, and the environment's answers. Buffers, mode, rotation, history flag, the other
expander, the other error bits, RESULT, BUSY, FAULT, the parameters and the host's actions are as in `s`. -/
def DriveFrame (s t : State) : Prop :=
  t = { s with
    shadow0 := t.shadow0
    fastOut := t.fastOut
    fastDir := t.fastDir
    pwr := t.pwr
    pwrFail := t.pwrFail
    lastErr := t.lastErr
    trace := t.trace
    envPmic := t.envPmic
    draws := t.draws }

/-- `t` is `s` but for what the scan sequencer may change: the shadow of expander 0, the fast port's levels, the
trace (44 R260-R269). -/
def ScanFrame (s t : State) : Prop :=
  t = { s with shadow0 := t.shadow0, fastOut := t.fastOut, trace := t.trace }

/-- `t` is `s` but for what pin writes on expander `c` may change: its shadow and the trace (41 R175). -/
def PinFrame (c : Chip) (s t : State) : Prop :=
  match c with
  | .x0 => t = { s with shadow0 := t.shadow0, trace := t.trace }
  | .x1 => t = { s with shadow1 := t.shadow1, trace := t.trace }

/-- `t` is `s` but for what PMIC reads change: the trace and the environment's answers. -/
def PollFrame (s t : State) : Prop :=
  t = { s with trace := t.trace, envPmic := t.envPmic, draws := t.draws }

/-- `t` is `s` but for what EXPANDER_INIT may change: the shadows, the presence bits, the trace, and the environment's
answers (41 R170). -/
def InitFrame (s t : State) : Prop :=
  t = { s with
    shadow0 := t.shadow0
    shadow1 := t.shadow1
    xpresent0 := t.xpresent0
    xpresent1 := t.xpresent1
    trace := t.trace
    envAcks := t.envAcks
    envExp := t.envExp
    draws := t.draws }

/-- Pins of expander 0 that are no core pin, and its registers that hold no core pin's direction, pull-up or latch, are
in `t` as in `s`. -/
def OtherPinsKept (s t : State) : Prop :=
  (∀ p, p ∉ corePins s.cfg → pinIsInput t .x0 p = pinIsInput s .x0 p ∧ pinPullup t .x0 p = pinPullup s .x0 p ∧
    pinLatch t .x0 p = pinLatch s .x0 p) ∧
  (∀ a, (∀ p, p ∈ corePins s.cfg → a ≠ iodirOf p ∧ a ≠ gppuOf p ∧ a ≠ olatOf p) →
    shadowGet t .x0 a = shadowGet s .x0 a)

/-! ### Sequences as flat lists of lines -/

/-- One line of a sequence of 44 or 46: `CORE_OUT` of a pin, `CORE_SET` of a pin, or an event that depends on no shadow
byte. -/
inductive Line where
  | out (p : Pin)
  | latch (p : Pin) (l : Bool)
  | event (e : Event)
  deriving DecidableEq, Repr

/-- The register bytes of expander 0 that a line sets, with `v` its register image (41 R176, R178). -/
def lineUpdates (v : Vector Byte 22) : Line → List (RegAddr × Byte)
  | .out p => [(iodirOf p, v.get (iodirOf p) &&& ~~~(pinMask p)), (gppuOf p, v.get (gppuOf p) &&& ~~~(pinMask p))]
  | .latch p l =>
    [(olatOf p, if l then v.get (olatOf p) ||| pinMask p else v.get (olatOf p) &&& ~~~(pinMask p))]
  | .event _ => []

/-- The events of a line: one `XW` for each byte that changes and for no other (41 R175). -/
def lineEvents (v : Vector Byte 22) (l : Line) : List Event :=
  match l with
  | .event e => [e]
  | .out _ => (lineUpdates v l).flatMap fun u => if v.get u.1 = u.2 then [] else [.xw .x0 u.1 u.2]
  | .latch _ _ => (lineUpdates v l).flatMap fun u => if v.get u.1 = u.2 then [] else [.xw .x0 u.1 u.2]

/-- The register image after a line. -/
def lineImage (v : Vector Byte 22) (l : Line) : Vector Byte 22 :=
  (lineUpdates v l).foldl (fun v u => v.set u.1.val u.2 u.1.isLt) v

/-- The events of the lines, in order. -/
def scriptEvents : List Line → Vector Byte 22 → List Event
  | [], _ => []
  | l :: ls, v => lineEvents v l ++ scriptEvents ls (lineImage v l)

/-- The register image after the lines. -/
def scriptImage (ls : List Line) (v : Vector Byte 22) : Vector Byte 22 := ls.foldl lineImage v

/-- From `s` to `t` the block emitted exactly the events of the lines, in their order, and expander 0's shadow is what
they make of it. -/
def Shows (ls : List Line) (s t : State) : Prop :=
  t.trace = s.trace ++ scriptEvents ls s.shadow0 ∧ t.shadow0 = scriptImage ls s.shadow0

/-- `VSCAN_START_SEQ` (44 R260). -/
def vscanStartLines (c : Config) : List Line :=
  [.event (.fset (ckvMask c)), .event (.dus c.vsT[0]),
   .latch c.pinSpv false, .event (.dus c.vsT[1]),
   .event (.fclr (ckvMask c)), .event (.dus c.vsT[2]),
   .event (.fset (ckvMask c)), .event (.dus c.vsT[3]),
   .latch c.pinSpv true, .event (.dus c.vsT[4]),
   .event (.fclr (ckvMask c)), .event (.dus c.vsT[5]),
   .event (.fset (ckvMask c)), .event (.dus c.vsT[6]),
   .event (.fclr (ckvMask c)), .event (.dus c.vsT[7]),
   .event (.fset (ckvMask c)), .event (.dus c.vsT[8]),
   .event (.fclr (ckvMask c)), .event (.dus c.vsT[9]),
   .event (.fset (ckvMask c))]

/-- `COLUMN_WRITE(d)` (44 R262). -/
def columnLines (c : Config) (d : Byte) : List Line :=
  [.event (.fset (pinlut c d ||| clMask c)), .event (.fclr (dataMask c ||| clMask c))]

/-- One row: `HSCAN_START_SEQ` with word 0, `COLUMN_WRITE` with words 1 .. W/4 - 1 ascending, `VSCAN_END_SEQ` (44 R261,
R262, R263, R268). -/
def rowLines (c : Config) (word : Nat → Byte) : List Line :=
  [.event (.fclr (sphMask c))] ++ columnLines c (word 0) ++ [.event (.fset (sphMask c)), .event (.fset (ckvMask c))] ++
  (List.range (wordsPerRow c - 1)).flatMap (fun k => columnLines c (word (k + 1))) ++
  [.event (.fclr (ckvMask c)), .event (.fset (leMask c)), .event (.fclr (leMask c))]

/-- `PASS(B)`: the rows 0 .. H - 1 ascending, then the between-pass delay (44 R268). -/
def passLines (c : Config) (b : WordSource) : List Line :=
  vscanStartLines c ++ (List.range c.h).flatMap (fun y => rowLines c (b y)) ++ [.event (.dus c.passDelayUs)]

/-- `CLEAN_LIST(L)`: each code in order, repeated as its pair says (44 R269). -/
def cleanLines (c : Config) (l : List (BitVec 2 × Nat)) : List Line :=
  l.flatMap fun e => (List.replicate e.2 (passLines c fun _ _ => cleanByte e.1)).flatten

/-- `POWER_ON_SEQ` before its poll (46 R331). -/
def powerOnLines (c : Config) : List Line :=
  [.out c.pinWakeup, .out c.pinPwrup, .out c.pinVcom,
   .latch c.pinWakeup true, .event (.dms c.wakeDelayMs),
   .latch c.pinPwrup true,
   .event (.pw c.pmicEnReg c.pmicEnVal),
   .out c.pinOe, .out c.pinGmod, .out c.pinSpv,
   .event (.fdir (dataMask c ||| clMask c ||| leMask c ||| ckvMask c ||| sphMask c)),
   .event (.fclr (dataMask c ||| clMask c ||| leMask c ||| ckvMask c)),
   .event (.fset (sphMask c)),
   .latch c.pinOe false, .latch c.pinGmod true, .latch c.pinSpv true,
   .latch c.pinVcom true]

/-- `POWER_ON_ABORT` (46 R333). -/
def powerAbortLines (c : Config) : List Line :=
  [.latch c.pinWakeup false, .latch c.pinVcom false, .latch c.pinPwrup false,
   .latch c.pinOe false, .latch c.pinGmod false, .latch c.pinSpv false,
   .event (.fclr (dataMask c ||| clMask c ||| leMask c ||| ckvMask c ||| sphMask c))]

/-- `POWER_OFF_SEQ` before its poll (46 R334). -/
def powerOffLines (c : Config) : List Line :=
  [.latch c.pinOe false, .latch c.pinGmod false, .latch c.pinSpv false,
   .event (.fclr (ckvMask c ||| sphMask c)), .event (.fclr (dataMask c ||| clMask c ||| leMask c)),
   .latch c.pinVcom false, .event (.dms c.offSettleMs),
   .latch c.pinPwrup false, .latch c.pinWakeup false]

/-- How many reads a poll makes when its first read takes answer number `k`: up to the first answer that satisfies
`pred`, at most 250 (46 R332). -/
def pollReads (pred : Byte → Bool) (s : State) (k : Nat) : Nat :=
  match (List.range pgTimeoutMs).find? (fun n => pred (pmicAnswer s (k + n))) with
  | some n => n + 1
  | none => pgTimeoutMs

/-- `PG_POLL(pred)`: a 1 ms delay and a read of `PG_REG`, once per answer read (46 R332). -/
def pollLines (pred : Byte → Bool) (s : State) (k : Nat) : List Line :=
  (List.range (pollReads pred s k)).flatMap fun n =>
    [.event (.dms pgPollMs), .event (.pr s.cfg.pgReg (pmicAnswer s (k + n)))]

/-- A power-on that reaches ON: the steps, the poll, the output enable; nothing while ON already (46 R331). -/
def turnOnLines (s : State) : List Line :=
  if s.pwr = .on then []
  else powerOnLines s.cfg ++ pollLines (pgGood s.cfg) s 0 ++ [.latch s.cfg.pinOe true]

/-- The answers that power-on reads. -/
def turnOnReads (s : State) : Nat := if s.pwr = .on then 0 else pollReads (pgGood s.cfg) s 0

/-- A refresh that reaches ON: power on, the passes, power off (45 R291, R292, R296). -/
def refreshLines (s : State) (passes : List Line) : List Line :=
  turnOnLines s ++ passes ++ powerOffLines s.cfg ++ pollLines (pgCleared s.cfg) s (turnOnReads s)

/-- The passes of a full 1-bit refresh (45 R291). -/
def fullPasses (s : State) : List Line :=
  cleanLines s.cfg s.cfg.fullPreamble ++ passLines s.cfg (bFwd s) ++ passLines s.cfg (bRev s) ++
  cleanLines s.cfg (cleanTail s.cfg)

/-- The passes of a grayscale refresh: phases 0 .. 8 in order (45 R292). -/
def grayscalePasses (s : State) : List Line :=
  cleanLines s.cfg s.cfg.fullPreamble ++ (List.finRange 9).flatMap (fun p => passLines s.cfg (bGray p s)) ++
  cleanLines s.cfg s.cfg.grayTail

/-- The passes of a partial refresh: three differential ones from the history before the commit, then the tail (45
R296). -/
def partialPasses (s : State) : List Line :=
  passLines s.cfg (bDiff s) ++ passLines s.cfg (bDiff s) ++ passLines s.cfg (bDiff s) ++
  cleanLines s.cfg (cleanTail s.cfg)

/-- `t` is what a refresh from `s` that reaches ON leaves of the panel drive: its events in order, OFF, every panel line
and core latch low, and every other pin, register and fast-port bit as before (45 R291, R292, R296; 46 R331, R334). -/
def DrivenRefresh (s : State) (passes : List Line) (t : State) : Prop :=
  Shows (refreshLines s passes) s t ∧ t.pwr = .off ∧ t.lastErr = s.lastErr ∧
  t.pwrFail = (s.pwrFail && decide (s.pwr = .on)) ∧
  t.fastOut = s.fastOut &&& ~~~(panelMask s.cfg) ∧
  t.fastDir = (if s.pwr = .on then s.fastDir else s.fastDir ||| panelMask s.cfg) ∧
  (∀ p, p ∈ corePins s.cfg → pinLatch t .x0 p = false) ∧ OtherPinsKept s t

/-! ### What a trace says of the lines and the registers -/

/-- `FAST_OUT` after an event (00 R13). -/
def fastOutAfter (w : Word) : Event → Word
  | .fset m => w ||| m
  | .fclr m => w &&& ~~~m
  | .fdir _ => w
  | .xw _ _ _ => w
  | .xwb _ _ _ => w
  | .dus _ => w
  | .dms _ => w
  | .pw _ _ => w
  | .xprobe _ _ => w
  | .xr _ _ _ => w
  | .xrb _ _ _ _ => w
  | .pr _ _ => w

/-- `FAST_DIR` after an event (00 R13). -/
def fastDirAfter (w : Word) : Event → Word
  | .fdir m => w ||| m
  | .fset _ => w
  | .fclr _ => w
  | .xw _ _ _ => w
  | .xwb _ _ _ => w
  | .dus _ => w
  | .dms _ => w
  | .pw _ _ => w
  | .xprobe _ _ => w
  | .xr _ _ _ => w
  | .xrb _ _ _ _ => w
  | .pr _ _ => w

/-- The image of expander `c`'s registers after an event: a byte written to or read from it is what it holds then (41
R174, R175; 20 R96). -/
def imageAfter (c : Chip) (v : Vector Byte 22) : Event → Vector Byte 22
  | .xw c' a b => if c' = c then v.set a.val b a.isLt else v
  | .xr c' a b => if c' = c then v.set a.val b a.isLt else v
  | .fset _ => v
  | .fclr _ => v
  | .fdir _ => v
  | .xwb _ _ _ => v
  | .dus _ => v
  | .dms _ => v
  | .pw _ _ => v
  | .xprobe _ _ => v
  | .xrb _ _ _ _ => v
  | .pr _ _ => v

/-! ### What a command may do, by kind -/

/-- The kinds of commands. -/
inductive Kind where
  | idle
  | buffer
  | rotation
  | refresh
  | power
  | scanStart
  | scanWord
  | pin (c : Chip)
  | pinRead (c : Chip)
  | reserved
  deriving DecidableEq, Repr

def kindOf : Instr → Kind
  | .nop => .idle
  | .setpix _ _ _ => .buffer
  | .clear => .buffer
  | .setmode _ => .buffer
  | .setrot _ => .rotation
  | .display => .refresh
  | .partialRefresh => .refresh
  | .pwron => .power
  | .pwroff => .power
  | .vstart => .scanStart
  | .hstart _ => .scanWord
  | .hdata _ => .scanWord
  | .vend => .scanWord
  | .pinmode c _ _ => .pin c
  | .pinwrite c _ _ => .pin c
  | .pinread c _ => .pinRead c
  | .reserved _ => .reserved

/-! ### Runs and launch premises (70 R412, R413) -/

/-- The states of the next `n` steps, the first one included. -/
def statesFrom : Nat → State → List State
  | 0, s => [s]
  | n + 1, s =>
    s :: match step s with
      | .next t => statesFrom n t
      | .fault _ => []
      | .refused _ => []

/-- The states of the run from `s`: one for each pending host action, and the first (70 R412). -/
def statesOfRun (s : State) : List State := statesFrom s.hostIn.length s

/-- The command that the next step executes, if it executes one. -/
def pendingCommand (s : State) : Option Instr :=
  match s.hostIn with
  | .write addr bits v :: _ =>
    if hostReg s.cfg addr bits = some .cmd ∧ s.fault = false ∧ s.busy = false then
      match decode v with
      | .command i => some i
      | .rejected _ => none
    else none
  | .read _ _ :: _ => none
  | .reset :: _ => none
  | [] => none

/-- The two polls: that of a power-on waits for power good, that of a power-off for it to clear (46 R331, R334). -/
inductive Poll where
  | powerOn
  | powerOff
  deriving DecidableEq, Repr

def pollAccepts (c : Config) : Poll → Byte → Bool
  | .powerOn => pgGood c
  | .powerOff => pgCleared c

/-- The polls of a refresh, if its power-on succeeds. -/
def refreshPolls (s : State) : List Poll := if s.pwr = .on then [.powerOff] else [.powerOn, .powerOff]

/-- The polls that a command started in `s` runs, in order, each after the one before it succeeded. -/
def pollsOf (i : Instr) (s : State) : List Poll :=
  if s.xpresent0 = false then []
  else match i with
  | .pwron => if s.pwr = .on then [] else [.powerOn]
  | .pwroff => if s.pwr = .off then [] else [.powerOff]
  | .display => refreshPolls s
  | .partialRefresh => if s.mode = .gray then [] else refreshPolls s
  | .nop => []
  | .setpix _ _ _ => []
  | .clear => []
  | .setmode _ => []
  | .setrot _ => []
  | .vstart => []
  | .hstart _ => []
  | .hdata _ => []
  | .vend => []
  | .pinmode _ _ _ => []
  | .pinwrite _ _ _ => []
  | .pinread _ _ => []
  | .reserved _ => []

/-- None of the answers that a power-on started in `s` can read is good. -/
def NoGoodAnswer (s : State) : Prop := ∀ n, n < pgTimeoutMs → pgGood s.cfg (pmicAnswer s n) = false

/-- `CleanLaunch`: the state right after a RESET (70 R390) whose two probes were acknowledged; b0 and b1 are the bytes
its two block reads answered (41 R170). -/
def CleanLaunch (s : State) : Prop :=
  s.xpresent0 = true ∧ s.xpresent1 = true ∧ s.fault = false ∧ s.busy = false ∧ s.pwr = .off ∧
  s.pwrFail = false ∧ s.errCmd = false ∧ s.errNopwr = false ∧ s.lastErr = 0 ∧ s.result = 0 ∧
  s.fb1 = [] ∧ s.fb3 = [] ∧ s.prev = [] ∧ s.mode = s.cfg.resetMode ∧ s.rot = 0 ∧ s.forcedFull = false ∧
  s.fastOut = 0 ∧ s.fastDir = 0 ∧
  ∃ b0 b1 : List Byte, b0.length = 22 ∧ b1.length = 22 ∧
    s.shadow0.toList = 0xFF :: 0xFF :: b0.drop 2 ∧ s.shadow1.toList = 0xFF :: 0xFF :: b1.drop 2 ∧
    s.trace = initEventsFor .x0 true b0 ++ initEventsFor .x1 true b1

/-- `NoFault`: FAULT = 0 in every state of the run. -/
def NoFault (s : State) : Prop := ∀ t ∈ statesOfRun s, t.fault = false

/-- `PowerGoodAtFirstPoll`: in the run, every poll's first read, the only one it then makes, answers what the poll
waits for. Poll number n of a command reads answer number n, counted from the state the command starts in. -/
def PowerGoodAtFirstPoll (s : State) : Prop :=
  ∀ t ∈ statesOfRun s, ∀ i ∈ pendingCommand t, ∀ k ∈ (pollsOf i t).zipIdx,
    pollAccepts t.cfg k.1 (pmicAnswer t k.2) = true

/-- `PowerNeverGood`: in the run, no answer that a power-on reads is good. -/
def PowerNeverGood (s : State) : Prop :=
  ∀ t ∈ statesOfRun s, ∀ i ∈ pendingCommand t, Poll.powerOn ∈ pollsOf i t → NoGoodAnswer t

/-- Some answer that a power-on started in `s` reads within its timeout is good. -/
def PowerComesGood (s : State) : Prop := ∃ n, n < pgTimeoutMs ∧ pgGood s.cfg (pmicAnswer s n) = true

/-- A refresh started here reaches ON: expander 0 is present, and the panel is ON already or will be. -/
def CanPower (s : State) : Prop := s.xpresent0 = true ∧ (s.pwr = .on ∨ PowerComesGood s)

/-- Power is needed and never comes: expander 0 is present, the panel is not ON, no answer is good. -/
def PowerFails (s : State) : Prop := s.xpresent0 = true ∧ s.pwr ≠ .on ∧ NoGoodAnswer s

/-! ### Invariants between commands -/

/-- Buffers: canonical memories inside their sizes, the inactive mode's buffers blank (10 R39), bit 3 of every FB3
nibble 0 (20 R82). -/
def BufferInv (s : State) : Prop :=
  Memory.wf monoBlank s.fb1 = true ∧ Memory.wf monoBlank s.prev = true ∧ Memory.wf (grayBlank s.cfg) s.fb3 = true ∧
  Memory.within (fb1Size s.cfg) s.fb1 = true ∧ Memory.within (fb1Size s.cfg) s.prev = true ∧
  Memory.within (fb3Size s.cfg) s.fb3 = true ∧
  (s.mode = .gray → s.fb1 = [] ∧ s.prev = []) ∧ (s.mode = .mono → s.fb3 = []) ∧
  ∀ i, fb3Read s i &&& 0x88 = 0

/-- Power (46 R337): OFF or ON between commands; ON implies expander 0 present, the core pins driven high as outputs
and the panel's fast-port pins outputs; OFF implies the panel's lines low. `fastDir` is the panel mask once a power-on
has run, so the last clause is R337's "after any power-off or abort". -/
def PowerInv (s : State) : Prop :=
  (s.pwr = .off ∨ s.pwr = .on) ∧
  (s.fastDir = 0 ∨ s.fastDir = panelMask s.cfg) ∧
  s.fastOut &&& ~~~(panelMask s.cfg) = 0 ∧
  (s.pwr = .on → s.xpresent0 = true ∧ s.fastDir = panelMask s.cfg ∧
    ∀ p, p ∈ corePins s.cfg → pinIsInput s .x0 p = false ∧ pinLatch s .x0 p = true) ∧
  (s.pwr = .off → s.fastOut = 0) ∧
  (s.pwr = .off → s.fastDir = panelMask s.cfg → ∀ p, p ∈ corePins s.cfg → pinLatch s .x0 p = false)

/-- Status (60 R360, R365, R366; 10 R46, R47): BUSY is 0 between commands, LAST_ERR is one of 0..7 and agrees with the
flags, PWR_FAIL is seen only while OFF, RESULT holds one bit. -/
def StatusInv (s : State) : Prop :=
  s.busy = false ∧ s.lastErr ≤ 7 ∧
  (s.fault = true → s.lastErr = 7) ∧
  (s.errCmd = true ∨ s.errNopwr = true ∨ s.pwrFail = true → s.lastErr ≠ 0) ∧
  (s.pwrFail = true → s.pwr = .off) ∧
  s.result &&& 0xFFFFFFFE = 0

/-- The head of the host's actions is a write of `v` to CMD. -/
def CmdPending (s : State) (v : Word) (rest : List HostInput) : Prop :=
  s.hostIn = .write s.cfg.regBase 32 v :: rest

/-- The block takes a command: its parameters are valid, it is neither halted nor busy. -/
def Ready (s : State) : Prop := configOk s.cfg = true ∧ s.fault = false ∧ s.busy = false

end Sys2Proof.Machine
end

