-- ==== Sys2Proof/Certificates/Slice0/Obligations.lean ====
section
/-! DEFINITION. The statements for the provers, from the numbered rules of spec/. Each docstring names the rules. -/

open Sys2Proof Sys2Proof.Machine

/-! ### Encoding (30_encoding) -/

/-- Every well-formed command is read back from its word (R111-R117, R119, R120, R130). -/
def Obligations.DecodeOfEncodeIsIdentity : Prop :=
  ∀ i : Instr, i.WellFormed = true → decode (encode i) = .command i

/-- Every word that decodes to a command is that command's own word, so no bit is dropped (R110, R117, R120). -/
def Obligations.EncodeOfDecodeIsIdentity : Prop :=
  ∀ (w : Word) (i : Instr), decode w = .command i → i.WellFormed = true ∧ encode i = w

/-- The decoder rejects exactly the words with a defined opcode and a reserved bit or value (R120, R122). That a word of
the opcode space 0x10-0x1F is not among the rejected ones, but is the command `reserved`, is the model's choice (log
entry 16, DESIGN CHOICE): R121 gives it the code 1 instead of 2, which `reserved` records. -/
def Obligations.DecoderRejectsExactlyReservedFields : Prop :=
  ∀ w : Word, (∃ e, decode w = .rejected e) ↔ ReservedFieldWord w

/-- The encoding examples of R132, both ways. -/
def Obligations.EncodingExamplesOfTheSpec : Prop :=
  ∀ e : Instr × Word, e ∈
    [(.nop, 0x00000000), (.setpix 0 0 1, 0x08000001), (.setpix 5 3 7, 0x0802801F), (.setpix (-1) 0 1, 0x0FFF8001),
     (.setpix 0 (-1) 0, 0x08007FF8), (.setpix 2047 2047 7, 0x0BFFBFFF), (.setpix (-2048) (-2048) 0, 0x0C004000),
     (.clear, 0x10000000), (.setmode .gray, 0x18000001), (.setrot 2, 0x20000002), (.display, 0x28000000),
     (.partialRefresh, 0x30000000), (.pwron, 0x38000000), (.pwroff, 0x40000000), (.vstart, 0x48000000),
     (.hstart 0xAA, 0x500000AA), (.hdata 0x55, 0x58000055), (.vend, 0x60000000), (.pinmode .x1 9 .output, 0x6E400001),
     (.pinmode .x1 9 .inputPullup, 0x6E400002), (.pinwrite .x1 9 true, 0x76400001), (.pinread .x0 7, 0x79C00000)] →
    decode e.2 = .command e.1 ∧ encode e.1 = e.2

/-! ### Steps and the host port (40_host_interface, 20_memory R86, 60_exceptions) -/

/-- A command word written to CMD of a block that is neither halted nor busy runs its command's meaning between
`BUSY <- 1` and `BUSY <- 0`; the host's action is used up (R150, R151). -/
def Obligations.StepRunsTheDecodedCommand : Prop :=
  ∀ (s : State) (v : Word) (rest : List HostInput) (i : Instr),
    Ready s → CmdPending s v rest → decode v = .command i →
    step s = endCommand (exec i { s with hostIn := rest, busy := true })

/-- A halted block ignores every CMD write without a flag; a busy one drops it with code 3 (R150, R362, R366). -/
def Obligations.HaltedAndBusyBlocksDropCommands : Prop :=
  ∀ (s : State) (v : Word) (rest : List HostInput), configOk s.cfg = true → CmdPending s v rest →
    (s.fault = true → step s = .next { s with hostIn := rest }) ∧
    (s.fault = false → s.busy = true → step s = .next { s with hostIn := rest, errCmd := true, lastErr := 3 })

/-- R121: a word with cmd[31] = 1 does nothing but set ERR_CMD and LAST_ERR = 1. -/
def Obligations.ReservedOpcodeOnlyRecordsCodeOne : Prop :=
  ∀ (s : State) (v : Word) (rest : List HostInput), Ready s → CmdPending s v rest → v.getLsbD 31 = true →
    step s = .next { s with hostIn := rest, errCmd := true, lastErr := 1 }

/-- R122: a reserved bit, or PINMODE mode 3, does nothing but set ERR_CMD and LAST_ERR = 2. -/
def Obligations.ReservedFieldOnlyRecordsCodeTwo : Prop :=
  ∀ (s : State) (v : Word) (rest : List HostInput), Ready s → CmdPending s v rest → ReservedFieldWord v →
    step s = .next { s with hostIn := rest, errCmd := true, lastErr := 2 }

/-- Every field of STATUS stands where R46 puts it, and bits [31:16] read 0 (R46, R48). -/
def Obligations.StatusFieldPositions : Prop :=
  ∀ s : State,
    (status s).getLsbD 0 = decide (s.pwr = .on) ∧ (status s).getLsbD 1 = decide (s.mode = .gray) ∧
    (status s).extractLsb' 2 2 = s.rot ∧ (status s).getLsbD 4 = s.forcedFull ∧
    (status s).getLsbD 5 = s.xpresent0 ∧ (status s).getLsbD 6 = s.xpresent1 ∧ (status s).getLsbD 7 = s.pwrFail ∧
    (status s).getLsbD 8 = s.errCmd ∧ (status s).getLsbD 9 = s.errNopwr ∧ (status s).getLsbD 10 = s.busy ∧
    (status s).getLsbD 11 = s.fault ∧ (status s).extractLsb' 12 4 = s.lastErr ∧ (status s).extractLsb' 16 16 = 0

/-- Host reads return STATUS, RESULT and, for CMD, 0, and writes to STATUS and RESULT are ignored; none of them
changes the block, in a halted state too (R45-R47, R86, R153, R366). -/
def Obligations.HostRegisterAccesses : Prop :=
  ∀ (s : State) (v : Word) (rest : List HostInput), configOk s.cfg = true →
    (s.hostIn = .read (s.cfg.regBase + 4) 32 :: rest →
      step s = .next { s with hostIn := rest, readData := status s }) ∧
    (s.hostIn = .read (s.cfg.regBase + 8) 32 :: rest →
      step s = .next { s with hostIn := rest, readData := s.result }) ∧
    (s.hostIn = .read s.cfg.regBase 32 :: rest → step s = .next { s with hostIn := rest, readData := 0 }) ∧
    (s.hostIn = .write (s.cfg.regBase + 4) 32 v :: rest → step s = .next { s with hostIn := rest }) ∧
    (s.hostIn = .write (s.cfg.regBase + 8) 32 v :: rest → step s = .next { s with hostIn := rest })

/-- An access of another width or address than the three decoded ones is refused (R86, R378). -/
def Obligations.UndecodedAccessesAreRefused : Prop :=
  ∀ (s : State) (addr bits : Nat) (v : Word) (rest : List HostInput), configOk s.cfg = true →
    ¬(bits = 32 ∧ addr ∈ [s.cfg.regBase, s.cfg.regBase + 4, s.cfg.regBase + 8]) →
    (s.hostIn = .write addr bits v :: rest → step s = .refused .undecodedAccess) ∧
    (s.hostIn = .read addr bits :: rest → step s = .refused .undecodedAccess)

/-- With no host action the block stays as it is; parameters that break R10 are refused (R10, R377, R394). -/
def Obligations.IdleBlocksStayAndBadParametersAreRefused : Prop :=
  ∀ s : State,
    (configOk s.cfg = true → s.hostIn = [] → step s = .next s) ∧ (configOk s.cfg = false → step s = .refused .badConfig)

/-! ### Reset (70_reset_and_hazards R390, 41_shadow_pins R170) -/

/-- MODEL'S CHOICE (log entries 1 and 2): the reset state of the model is the CleanLaunch of R413 in the test
configuration TC; it meets the invariants, its STATUS is that of 95 section 2. -/
def Obligations.ResetStateMeetsTheInvariants : Prop :=
  CleanLaunch State.reset ∧ configOk State.reset.cfg = true ∧ BufferInv State.reset ∧ PowerInv State.reset ∧
  StatusInv State.reset ∧ status State.reset = 0x00000060

/-- RESET gives every element its reset value, and the parameters and the host's later actions stay, for whatever the
environment answers: a0 and a1 to the two probes, b0 and b1 to the block reads of those that acknowledge (R170, R390).
Open are the shadow of an expander that does not acknowledge (R391; free values, log entry 12) and the answers still to
come. Model's choices: an empty list is a buffer of blank bytes (log entry 11, DESIGN CHOICE), and the blank byte of FB3
follows GRAY_WHITE where R390 writes 0x77, its value for GRAY_WHITE = 7 (log entry 19, DEDUCED). -/
def Obligations.ResetSetsEveryField : Prop :=
  ∀ (s : State) (rest : List HostInput), configOk s.cfg = true → s.hostIn = .reset :: rest →
    ∃ (t : State) (a0 a1 : Bool) (b0 b1 : List Byte), step s = .next t ∧ b0.length = 22 ∧ b1.length = 22 ∧
      t = { s with
        hostIn := rest
        mode := s.cfg.resetMode
        rot := 0
        forcedFull := false
        pwr := .off
        fb1 := []
        fb3 := []
        prev := []
        fastOut := 0
        fastDir := 0
        pwrFail := false
        errCmd := false
        errNopwr := false
        fault := false
        busy := false
        lastErr := 0
        result := 0
        shadow0 := t.shadow0
        shadow1 := t.shadow1
        xpresent0 := a0
        xpresent1 := a1
        trace := initEventsFor .x0 a0 b0 ++ initEventsFor .x1 a1 b1
        envAcks := t.envAcks
        envExp := t.envExp
        draws := t.draws } ∧
      (a0 = true → t.shadow0.toList = 0xFF :: 0xFF :: b0.drop 2) ∧
      (a1 = true → t.shadow1.toList = 0xFF :: 0xFF :: b1.drop 2)

/-- The two expander initialisations of RESET, for the answers a0, a1 to the probes and b0, b1 to the block reads: the
presence bits, the shadows, and the new trace (R170, R390); with both probes acknowledged it is R413's CleanLaunch. -/
def Obligations.ResetInitialisesTheExpanders : Prop :=
  ∀ (s : State) (rest : List HostInput) (a0 a1 : Bool) (acks : List Bool) (b0 b1 bytes : List Byte),
    configOk s.cfg = true → s.hostIn = .reset :: rest → s.envAcks = a0 :: a1 :: acks →
    b0.length = 22 → b1.length = 22 →
    s.envExp = (if a0 then b0 else []) ++ (if a1 then b1 else []) ++ bytes →
    ∃ t, step s = .next t ∧ t.xpresent0 = a0 ∧ t.xpresent1 = a1 ∧
      t.trace = initEventsFor .x0 a0 b0 ++ initEventsFor .x1 a1 b1 ∧
      (a0 = true → t.shadow0.toList = 0xFF :: 0xFF :: b0.drop 2) ∧
      (a1 = true → t.shadow1.toList = 0xFF :: 0xFF :: b1.drop 2) ∧
      t.envAcks = acks ∧ t.envExp = bytes ∧ (a0 = true → a1 = true → CleanLaunch t)

/-! ### Tables and the comparator (42_tables, 45_refresh R293, R297) -/

/-- R207: the expanded word's four groups decode back to the byte. -/
def Obligations.PinlutIsInjectiveByDecoding : Prop :=
  ∀ c : Config, configOk c = true → ∀ d : Byte, pinDecode c (pinlut c d) = d

/-- R208, all five consequences. -/
def Obligations.PinlutLaws : Prop :=
  ∀ c : Config, configOk c = true →
    (∀ d, pinlut c d &&& ~~~(dataMask c) = 0) ∧
    (∀ a b, pinlut c (a ||| b) = pinlut c a ||| pinlut c b) ∧
    (∀ a b, pinlut c (a &&& b) = pinlut c a &&& pinlut c b) ∧
    (∀ a, pinlut c (~~~a) = dataMask c &&& ~~~(pinlut c a)) ∧
    (∀ d, pinlut c d &&& clMask c = 0 ∧ pinlut c d &&& leMask c = 0 ∧ pinlut c d &&& ckvMask c = 0 ∧
      pinlut c d &&& sphMask c = 0)

/-- R209: the lanes of LUTW, LUTB and of their AND, in all four cases of the mask bits, and the comparator's masks are
disjoint; also the lanes of a clean byte (R203, R204, R206). -/
def Obligations.TransitionTableLanes : Prop :=
  ∀ c : Config, configOk c = true → ∀ (mw mb : BitVec 4) (code : BitVec 2) (j : Fin 4),
    lane (lutw c mw) j = (if mw.getLsbD j.val then c.codeWhite else codeSkip) ∧
    lane (lutb c mb) j = (if mb.getLsbD j.val then c.codeBlack else codeSkip) ∧
    lane (lutw c mw &&& lutb c mb) j =
      (if mw.getLsbD j.val then (if mb.getLsbD j.val then codeDischarge else c.codeWhite)
       else if mb.getLsbD j.val then c.codeBlack else codeSkip) ∧
    lane (cleanByte code) j = code ∧ lutw c 0 = 0xFF ∧ lutb c 0 = 0xFF ∧
    ∀ new old : Byte, toWhite new old &&& toBlack new old = 0

/-- The comparator's masks are disjoint, cover exactly the changed bits, and name the direction (R297). -/
def Obligations.ComparatorMasks : Prop :=
  ∀ new old : Byte, toWhite new old &&& toBlack new old = 0 ∧ toWhite new old ||| toBlack new old = new ^^^ old ∧
    ∀ j, j < 8 → (toWhite new old).getLsbD j = (old.getLsbD j && !new.getLsbD j) ∧
      (toBlack new old).getLsbD j = (new.getLsbD j && !old.getLsbD j)

/-- Lane 3 - j of word k of row y of a partial pass carries physical pixel 4k + j: SKIP when it did not change, BLACK
when it became black, WHITE when it became white (R81, R201, R293, R297). -/
def Obligations.PartialPassDrivesExactlyChangedPixels : Prop :=
  ∀ (s : State) (y k : Nat) (j : Fin 4),
    lane (bDiff s y k) j.rev =
      if monoPixel s (4 * k + j.val) y = prevPixel s (4 * k + j.val) y then codeSkip
      else if monoPixel s (4 * k + j.val) y then s.cfg.codeBlack else s.cfg.codeWhite

/-- The same for the forward, reverse and grayscale passes: white pixels get WHITE, black ones BLACK, and a gray pixel
its level's code in the phase, bit 3 of its nibble ignored (R81, R82, R201, R205, R210, R293). -/
def Obligations.FullAndGrayPassesDriveEachPixel : Prop :=
  ∀ (s : State) (y k : Nat) (j : Fin 4) (p : Phase),
    lane (bFwd s y k) j.rev = (if monoPixel s (4 * k + j.val) y then codeSkip else s.cfg.codeWhite) ∧
    lane (bRev s y k) j.rev = (if monoPixel s (4 * k + j.val) y then s.cfg.codeBlack else codeSkip) ∧
    lane (bGray p s y k) j.rev = waveCode s.cfg ((grayPixel s (4 * k + j.val) y).extractLsb' 0 3) p

/-! ### Framebuffer commands (43_framebuffer) -/

/-- R235: for each rotation the transform is a bijection from the logical extent onto the panel, with the inverses the
rule gives. -/
def Obligations.RotationIsABijection : Prop :=
  ∀ (c : Config) (r : BitVec 2),
    (∀ x y, inExtent c r x y = true →
      0 ≤ (rotate c r x y).1 ∧ (rotate c r x y).1 < c.w ∧ 0 ≤ (rotate c r x y).2 ∧ (rotate c r x y).2 < c.h) ∧
    (∀ px py : Int, 0 ≤ px → px < c.w → 0 ≤ py → py < c.h →
      (∃ x y, inExtent c r x y = true ∧ rotate c r x y = (px, py) ∧
        ∀ x' y', inExtent c r x' y' = true → rotate c r x' y' = (px, py) → x' = x ∧ y' = y) ∧
      rotate c 1 py (c.w - 1 - px) = (px, py) ∧ rotate c 2 (c.w - 1 - px) (c.h - 1 - py) = (px, py) ∧
      rotate c 3 (c.h - 1 - py) px = (px, py))

/-- SETPIX in MONO completes for every point of the extent, writes one byte of FB1 and in it one bit: the pixel is
black for a nonzero v, white for 0 (R81, R118, R230, R231, R237). -/
def Obligations.SetpixMonoWritesOnePixel : Prop :=
  ∀ (s : State) (x y : Int) (v : BitVec 3), configOk s.cfg = true → Memory.wf monoBlank s.fb1 = true →
    s.mode = .mono → inExtent s.cfg s.rot x y = true →
    ∃ t, exec (.setpix x y v) s = .next t ∧ t = { s with fb1 := t.fb1 } ∧
      (∀ i, i ≠ fb1Index s.cfg (physicalPixel s.cfg s.rot x y).1 (physicalPixel s.cfg s.rot x y).2 →
        fb1Read t i = fb1Read s i) ∧
      ∀ px py, px < s.cfg.w → py < s.cfg.h →
        monoPixel t px py = if (px, py) = physicalPixel s.cfg s.rot x y then decide (v ≠ 0) else monoPixel s px py

/-- SETPIX in GRAY completes for every point of the extent, writes one byte of FB3 and in it one nibble `0b0vvv`
(R82, R118, R230, R231, R237). -/
def Obligations.SetpixGrayWritesOnePixel : Prop :=
  ∀ (s : State) (x y : Int) (v : BitVec 3), configOk s.cfg = true → Memory.wf (grayBlank s.cfg) s.fb3 = true →
    s.mode = .gray → inExtent s.cfg s.rot x y = true →
    ∃ t, exec (.setpix x y v) s = .next t ∧ t = { s with fb3 := t.fb3 } ∧
      (∀ i, i ≠ fb3Index s.cfg (physicalPixel s.cfg s.rot x y).1 (physicalPixel s.cfg s.rot x y).2 →
        fb3Read t i = fb3Read s i) ∧
      ∀ px py, px < s.cfg.w → py < s.cfg.h →
        grayPixel t px py =
          if (px, py) = physicalPixel s.cfg s.rot x y then v.zeroExtend 4 else grayPixel s px py

/-- SETPIX of a point that is negative or not below the logical extent of the current rotation is discarded with no
error (R231). -/
def Obligations.SetpixOutsideTheExtentIsDiscarded : Prop :=
  ∀ (s : State) (x y : Int) (v : BitVec 3),
    (x < 0 ∨ y < 0 ∨ ((s.rot = 0 ∨ s.rot = 2) ∧ ((s.cfg.w : Int) ≤ x ∨ (s.cfg.h : Int) ≤ y)) ∨
      ((s.rot = 1 ∨ s.rot = 3) ∧ ((s.cfg.h : Int) ≤ x ∨ (s.cfg.w : Int) ≤ y))) →
    exec (.setpix x y v) s = .next s

/-- CLEAR blanks every byte of the active buffer, 0x00 in MONO and the gray blank in GRAY, and changes nothing else
(R232). -/
def Obligations.ClearBlanksTheActiveBuffer : Prop :=
  ∀ s : State,
    (s.mode = .mono → ∃ t, exec .clear s = .next t ∧ t = { s with fb1 := t.fb1 } ∧ ∀ i, fb1Read t i = 0x00) ∧
    (s.mode = .gray → ∃ t, exec .clear s = .next t ∧ t = { s with fb3 := t.fb3 } ∧
      ∀ i, fb3Read t i = s.cfg.grayWhite.zeroExtend 8 <<< 4 ||| s.cfg.grayWhite.zeroExtend 8)

/-- SETMODE to the other mode blanks the three buffers, sets FORCED_FULL and MODE and nothing else; to the current
mode it does nothing (R233). R233 writes 0x77 to FB3, which is what it reads for GRAY_WHITE = 7; that it reads
`(GRAY_WHITE << 4) | GRAY_WHITE` for another GRAY_WHITE is the model's choice (log entry 19, DEDUCED). -/
def Obligations.SetmodeChangesTheModeAndBlanks : Prop :=
  ∀ (s : State) (m : Mode),
    (m ≠ s.mode → ∃ t, exec (.setmode m) s = .next t ∧
      t = { s with fb1 := t.fb1, prev := t.prev, fb3 := t.fb3, forcedFull := true, mode := m } ∧
      ∀ i, fb1Read t i = 0x00 ∧ prevRead t i = 0x00 ∧ (s.cfg.grayWhite = 7 → fb3Read t i = 0x77) ∧
        fb3Read t i = s.cfg.grayWhite.zeroExtend 8 <<< 4 ||| s.cfg.grayWhite.zeroExtend 8) ∧
    (m = s.mode → exec (.setmode m) s = .next s)

/-- NOP changes nothing, SETROT writes ROT only, a reserved opcode records code 1 only (R121, R152, R234). -/
def Obligations.NopSetrotAndReservedComplete : Prop :=
  ∀ (s : State) (r : BitVec 2) (low : BitVec 31),
    exec .nop s = .next s ∧ exec (.setrot r) s = .next { s with rot := r } ∧
    exec (.reserved low) s = .next { s with errCmd := true, lastErr := 1 }

/-! ### Pin commands (41_shadow_pins) -/

/-- PINMODE on a present expander and no core pin: the pin's direction and pull-up bits become the mode's, every other
shadow bit keeps its value, and exactly the changed bytes are pushed, IODIR before GPPU (R171, R172, R175, R178). -/
def Obligations.PinmodeSetsOnePin : Prop :=
  ∀ (s : State) (c : Chip) (p : Pin) (mode : PinMode),
    namesCorePin s.cfg c p = false → xpresent s c = true →
    ∃ t, exec (.pinmode c p mode) s = .next t ∧ PinFrame c s t ∧
      (∀ q, pinIsInput t c q = if q = p then decide (mode ≠ .output) else pinIsInput s c q) ∧
      (∀ q, pinPullup t c q = if q = p then decide (mode = .inputPullup) else pinPullup s c q) ∧
      (∀ a, a ≠ iodirOf p → a ≠ gppuOf p → shadowGet t c a = shadowGet s c a) ∧
      t.trace = s.trace ++
        (if shadowGet t c (iodirOf p) = shadowGet s c (iodirOf p) then []
         else [.xw c (iodirOf p) (shadowGet t c (iodirOf p))]) ++
        (if shadowGet t c (gppuOf p) = shadowGet s c (gppuOf p) then []
         else [.xw c (gppuOf p) (shadowGet t c (gppuOf p))])

/-- PINWRITE on a present expander and no core pin: the pin's latch takes the level, every other shadow bit keeps its
value, and the byte is pushed exactly when it changes (R171, R173, R175, R176). -/
def Obligations.PinwriteSetsOneLatch : Prop :=
  ∀ (s : State) (c : Chip) (p : Pin) (l : Bool),
    namesCorePin s.cfg c p = false → xpresent s c = true →
    ∃ t, exec (.pinwrite c p l) s = .next t ∧ PinFrame c s t ∧
      (∀ q, pinLatch t c q = if q = p then l else pinLatch s c q) ∧
      (∀ a, a ≠ olatOf p → shadowGet t c a = shadowGet s c a) ∧
      t.trace = s.trace ++
        (if pinLatch s c p = l then [] else [.xw c (olatOf p) (shadowGet t c (olatOf p))])

/-- PINREAD on a present expander: one read event whatever the byte is, the answer in the shadow's GPIO byte, and its
bit p & 7 in RESULT (R171, R174). The answer is the environment's: the next of the tape, or a free value. -/
def Obligations.PinreadReturnsTheAnsweredBit : Prop :=
  ∀ (s : State) (c : Chip) (p : Pin), xpresent s c = true →
    ∃ t, exec (.pinread c p) s = .next t ∧
      t = { s with
        result := t.result
        shadow0 := t.shadow0
        shadow1 := t.shadow1
        trace := t.trace
        envExp := t.envExp
        draws := t.draws } ∧
      t.result = (if (expAnswer s).getLsbD (p.val % 8) then 1 else 0) ∧
      (∀ c' a, shadowGet t c' a = if c' = c ∧ a = gpioOf p then expAnswer s else shadowGet s c' a) ∧
      t.trace = s.trace ++ [.xr c (gpioOf p) (expAnswer s)] ∧ t.envExp = s.envExp.tail

/-- A core pin of expander 0 is rejected with code 4 before presence is checked; an absent expander is code 7
(R172-R174, R177, R361, R366, R367). -/
def Obligations.PinCommandErrors : Prop :=
  ∀ (s : State) (c : Chip) (p : Pin) (mode : PinMode) (l : Bool),
    (c = .x0 → p ∈ corePins s.cfg →
      exec (.pinmode c p mode) s = .next { s with errCmd := true, lastErr := 4 } ∧
      exec (.pinwrite c p l) s = .next { s with errCmd := true, lastErr := 4 }) ∧
    (¬(c = .x0 ∧ p ∈ corePins s.cfg) → xpresent s c = false →
      exec (.pinmode c p mode) s = .next { s with fault := true, lastErr := 7 } ∧
      exec (.pinwrite c p l) s = .next { s with fault := true, lastErr := 7 }) ∧
    (xpresent s c = false → exec (.pinread c p) s = .next { s with fault := true, lastErr := 7 })

/-! ### Scan sequencer (44_scan) -/

/-- The raw scan commands are rejected with code 5 while the panel is not ON, and VSTART is code 7 when expander 0 is
absent (R264-R267, R339, R361, R366, R367). -/
def Obligations.RawScanCommandsAreGatedOnPower : Prop :=
  ∀ (s : State) (i : Instr),
    (s.pwr ≠ .on → (i = .vstart ∨ i = .vend ∨ (∃ d, i = .hstart d) ∨ ∃ d, i = .hdata d) →
      exec i s = .next { s with errNopwr := true, lastErr := 5 }) ∧
    (s.pwr = .on → s.xpresent0 = false → exec .vstart s = .next { s with fault := true, lastErr := 7 })

/-- VSTART while ON: the 21 events of R264 (20 when SPV was low: its first write is not needed), CKV high at the end,
SPV high, nothing else changed (R260, R264). -/
def Obligations.VstartEmitsTheStartSequence : Prop :=
  ∀ s : State, s.pwr = .on → s.xpresent0 = true →
    let ckv := ckvMask s.cfg
    let t := s.cfg.vsT
    let a := olatOf s.cfg.pinSpv
    let o := shadowGet s .x0 a
    let m := pinMask s.cfg.pinSpv
    ∃ u, exec .vstart s = .next u ∧
      u = { s with shadow0 := u.shadow0, fastOut := s.fastOut ||| ckv, trace := u.trace } ∧
      (∀ b, shadowGet u .x0 b = if b = a then o ||| m else shadowGet s .x0 b) ∧
      u.trace = s.trace ++ [.fset ckv, .dus t[0]] ++
        (if pinLatch s .x0 s.cfg.pinSpv then [.xw .x0 a (o &&& ~~~m)] else []) ++
        [.dus t[1], .fclr ckv, .dus t[2], .fset ckv, .dus t[3], .xw .x0 a (o ||| m), .dus t[4], .fclr ckv, .dus t[5],
         .fset ckv, .dus t[6], .fclr ckv, .dus t[7], .fset ckv, .dus t[8], .fclr ckv, .dus t[9], .fset ckv]

/-- HSTART while ON: its five events; the data lanes and CL end low whatever d is, SPH and CKV end high, nothing else
changes (R261, R265). -/
def Obligations.HstartLatchesTheFirstWord : Prop :=
  ∀ (s : State) (d : Byte), s.pwr = .on →
    exec (.hstart d) s = .next { s with
      fastOut := s.fastOut &&& ~~~(dataMask s.cfg ||| clMask s.cfg) ||| sphMask s.cfg ||| ckvMask s.cfg
      trace := s.trace ++ [.fclr (sphMask s.cfg), .fset (pinlut s.cfg d ||| clMask s.cfg),
        .fclr (dataMask s.cfg ||| clMask s.cfg), .fset (sphMask s.cfg), .fset (ckvMask s.cfg)] }

/-- HDATA while ON: its two events; the data lanes and CL end low, nothing else changes (R262, R266). -/
def Obligations.HdataClocksOneWord : Prop :=
  ∀ (s : State) (d : Byte), s.pwr = .on →
    exec (.hdata d) s = .next { s with
      fastOut := s.fastOut &&& ~~~(dataMask s.cfg ||| clMask s.cfg)
      trace := s.trace ++ [.fset (pinlut s.cfg d ||| clMask s.cfg), .fclr (dataMask s.cfg ||| clMask s.cfg)] }

/-- VEND while ON: its three events; CKV and LE end low, nothing else changes (R263, R267). -/
def Obligations.VendPulsesTheLatch : Prop :=
  ∀ s : State, s.pwr = .on →
    exec .vend s = .next { s with
      fastOut := s.fastOut &&& ~~~(ckvMask s.cfg ||| leMask s.cfg)
      trace := s.trace ++ [.fclr (ckvMask s.cfg), .fset (leMask s.cfg), .fclr (leMask s.cfg)] }

/-- What a pass emits, from any state and for any word source: the VSCAN_START events, the rows 0 .. H - 1 ascending,
each with word 0, then the words 1 .. W/4 - 1 ascending, then the VSCAN_END events, and the between-pass delay (R260-
R263, R268). With SPV high at its start VSCAN_START_SEQ emits 21 events, a row W/2 + 6, a pass 22 + H * (W/2 + 6)
(R270). -/
def Obligations.PassEventCount : Prop :=
  ∀ (s : State) (b : WordSource),
    Shows (passLines s.cfg b) s (pass b s) ∧
    (configOk s.cfg = true → SpvHigh s →
      (vscanStartSeq s).trace.length = s.trace.length + 21 ∧
      (∀ y, (scanRow b y s).trace.length = s.trace.length + (s.cfg.w / 2 + 6)) ∧
      (pass b s).trace.length = s.trace.length + (22 + s.cfg.h * (s.cfg.w / 2 + 6)))

/-- R271: a pass that starts at the idle levels ends at them, with the shadow of expander 0 unchanged; and after any
row, so between rows, CKV, LE, CL and the data lanes are low and SPH is high. -/
def Obligations.PassReturnsToIdleLevels : Prop :=
  ∀ (s : State) (b : WordSource), configOk s.cfg = true →
    (IdleLevels s → IdleLevels (pass b s) ∧ (pass b s).fastOut = s.fastOut ∧ (pass b s).shadow0 = s.shadow0) ∧
    ∀ y, (scanRow b y s).fastOut &&& panelMask s.cfg = sphMask s.cfg

/-! ### Power sequencer (46_power) -/

/-- PWRON from a state that is not ON, expander 0 present, power good within the timeout: the events of R331 in order,
each XW exactly when its byte changes, the poll as a delay and a read per answer up to the first good one, then OE; ON,
PWR_FAIL cleared, the core pins outputs driven high, the panel's fast-port bits outputs with SPH high and the others
low; every other pin and shadow byte, and LAST_ERR, unchanged (R330, R331, R332). -/
def Obligations.PwronReachesOn : Prop :=
  ∀ s : State, configOk s.cfg = true → s.pwr ≠ .on → s.xpresent0 = true → PowerComesGood s →
    ∃ t, exec .pwron s = .next t ∧ DriveFrame s t ∧ t.pwr = .on ∧ t.pwrFail = false ∧ t.lastErr = s.lastErr ∧
      Shows (powerOnLines s.cfg ++ pollLines (pgGood s.cfg) s 0 ++ [.latch s.cfg.pinOe true]) s t ∧
      t.fastDir = s.fastDir ||| panelMask s.cfg ∧
      t.fastOut = s.fastOut &&& ~~~(panelMask s.cfg) ||| sphMask s.cfg ∧
      (∀ p, p ∈ corePins s.cfg → pinIsInput t .x0 p = false ∧ pinPullup t .x0 p = false ∧ pinLatch t .x0 p = true) ∧
      OtherPinsKept s t ∧ t.envPmic = s.envPmic.drop (pollReads (pgGood s.cfg) s 0)

/-- R338: if no answer is ever good, PWRON emits the events of R331 up to the poll, the 250 polls and the events of R333,
and ends OFF with PWR_FAIL and code 6, the core latches 0 and the fast-port control and data lines 0; every other pin
and shadow byte is unchanged (R331-R333, R338). -/
def Obligations.PowerNeverGoodFailsSafe : Prop :=
  ∀ s : State, configOk s.cfg = true → PowerFails s →
    ∃ t, exec .pwron s = .next t ∧ DriveFrame s t ∧ t.pwr = .off ∧ t.pwrFail = true ∧ t.lastErr = 6 ∧
      Shows (powerOnLines s.cfg ++ pollLines (pgGood s.cfg) s 0 ++ powerAbortLines s.cfg) s t ∧
      pollReads (pgGood s.cfg) s 0 = 250 ∧
      t.fastDir = s.fastDir ||| panelMask s.cfg ∧ t.fastOut = s.fastOut &&& ~~~(panelMask s.cfg) ∧
      (∀ p, p ∈ corePins s.cfg → pinIsInput t .x0 p = false ∧ pinPullup t .x0 p = false ∧ pinLatch t .x0 p = false) ∧
      OtherPinsKept s t ∧ t.envPmic = s.envPmic.drop 250

/-- PWROFF from a state that is not OFF, expander 0 present: the events of R334 in order, each XW exactly when its byte
changes, the poll as a delay and a read per answer; OFF whatever the poll answers, the core latches 0, the panel's
fast-port lines 0, every other latch and register kept, no error recorded (R332, R334, R335). -/
def Obligations.PwroffReachesOff : Prop :=
  ∀ s : State, configOk s.cfg = true → s.pwr ≠ .off → s.xpresent0 = true →
    ∃ t, exec .pwroff s = .next t ∧ DriveFrame s t ∧ t.pwr = .off ∧ t.pwrFail = s.pwrFail ∧ t.lastErr = s.lastErr ∧
      Shows (powerOffLines s.cfg ++ pollLines (pgCleared s.cfg) s 0) s t ∧
      t.fastDir = s.fastDir ∧ t.fastOut = s.fastOut &&& ~~~(panelMask s.cfg) ∧
      (∀ p, p ∈ corePins s.cfg → pinLatch t .x0 p = false) ∧
      (∀ p, p ∉ corePins s.cfg → pinLatch t .x0 p = pinLatch s .x0 p) ∧
      (∀ a, (∀ p, p ∈ corePins s.cfg → a ≠ olatOf p) → shadowGet t .x0 a = shadowGet s .x0 a) ∧
      t.envPmic = s.envPmic.drop (pollReads (pgCleared s.cfg) s 0)

/-- Asking for the current power state is a no-op, even with expander 0 absent; otherwise an absent expander 0 is code
7 for PWRON, PWROFF, DISPLAY and, in MONO, PARTIAL, with no event (R295, R330, R331, R334, R335, R366, R367). -/
def Obligations.PowerNoOpsAndAbsentExpander : Prop :=
  ∀ s : State,
    (s.pwr = .on → exec .pwron s = .next s) ∧ (s.pwr = .off → exec .pwroff s = .next s) ∧
    (s.xpresent0 = false → s.pwr ≠ .on →
      exec .pwron s = .next { s with fault := true, lastErr := 7 } ∧
      exec .display s = .next { s with fault := true, lastErr := 7 } ∧
      (s.mode = .mono → exec .partialRefresh s = .next { s with fault := true, lastErr := 7 })) ∧
    (s.xpresent0 = false → s.pwr ≠ .off → exec .pwroff s = .next { s with fault := true, lastErr := 7 })

/-! ### Refresh (45_refresh) -/

/-- DISPLAY in MONO that reaches ON, from OFF or ON: the power-on, the preamble's clean passes, one forward and one
reverse pass of FB1, the clean tail, the power-off, in this order and word by word; it commits PREV = FB1, clears
FORCED_FULL, ends OFF with the panel's lines and the core latches low, and changes nothing else: no other pin, register
or fast-port bit (R290, R291, R405). -/
def Obligations.DisplayMonoCommitsAndPowersOff : Prop :=
  ∀ s : State, configOk s.cfg = true → s.mode = .mono → CanPower s →
    ∃ t, exec .display s = .next t ∧ DriveFrame { s with prev := s.fb1, forcedFull := false } t ∧
      DrivenRefresh s (fullPasses s) t

/-- DISPLAY in GRAY that reaches ON, from OFF or ON: the power-on, the preamble's clean passes, the waveform phases 0 .. 8
of FB3 in order, the gray tail, the power-off; it writes neither PREV nor FORCED_FULL nor any buffer, ends OFF, and
changes no other pin, register or fast-port bit (R290, R292). -/
def Obligations.DisplayGrayLeavesHistoryAlone : Prop :=
  ∀ s : State, configOk s.cfg = true → s.mode = .gray → CanPower s →
    ∃ t, exec .display s = .next t ∧ DriveFrame s t ∧ DrivenRefresh s (grayscalePasses s) t

/-- PARTIAL in MONO with a valid history that reaches ON, from OFF or ON: the power-on, three differential passes whose
words compare FB1 with PREV as it was before the commit, the clean tail, the power-off; it commits PREV = FB1, leaves
FORCED_FULL 0, ends OFF, and changes no other pin, register or fast-port bit (R295, R296, R298). -/
def Obligations.PartialCommitsAndPowersOff : Prop :=
  ∀ s : State, configOk s.cfg = true → BufferInv s → s.mode = .mono → s.forcedFull = false → CanPower s →
    ∃ t, exec .partialRefresh s = .next t ∧ DriveFrame { s with prev := s.fb1 } t ∧
      DrivenRefresh s (partialPasses s) t

/-- PARTIAL with FORCED_FULL = 1 is exactly the full refresh; in GRAY it does nothing (R295, R301). -/
def Obligations.PartialForcedFullAndGray : Prop :=
  ∀ s : State,
    (s.mode = .mono → s.forcedFull = true → exec .partialRefresh s = exec .display s) ∧
    (s.mode = .gray → exec .partialRefresh s = .next s)

/-- R299: once PREV = FB1, every word of a differential pass is all SKIP; a further PARTIAL drives three passes of such
words, then the CLEAN_TAIL, which drives its codes as always (R296), and leaves PREV unchanged. -/
def Obligations.PartialIsIdempotent : Prop :=
  ∀ s : State, s.prev = s.fb1 →
    (∀ y k, bDiff s y k = 0xFF) ∧
    (configOk s.cfg = true → BufferInv s → s.mode = .mono → s.forcedFull = false → CanPower s →
      ∃ t, exec .partialRefresh s = .next t ∧ t.prev = s.prev ∧ t.fb1 = s.fb1 ∧
        DrivenRefresh s (cleanLines s.cfg [(codeSkip, 3)] ++ cleanLines s.cfg (cleanTail s.cfg)) t)

/-- R294: a refresh whose power-on times out does exactly what PWRON does: the events up to the abort, no pass, no
buffer change (R291, R292, R294, R296, R339). -/
def Obligations.RefreshWithoutPowerDrivesNothing : Prop :=
  ∀ s : State, PowerFails s →
    exec .display s = exec .pwron s ∧ (s.mode = .mono → exec .partialRefresh s = exec .pwron s) ∧
    ∃ t, exec .display s = .next t ∧ t.fb1 = s.fb1 ∧ t.fb3 = s.fb3 ∧ t.prev = s.prev ∧
      t.forcedFull = s.forcedFull ∧ t.pwr = .off ∧ t.pwrFail = true ∧ t.lastErr = 6

/-- The passes of each refresh, counted through the events it adds when the panel is ON already: R302's pass counts
(P_pre + 1 + 1 + 2, P_pre + 9 + P_gt, 3 + 2, the clean tail being two passes) times the pass length of R270, plus the 9
events and 2 per poll of the power-off (R270, R302, R334, R379). -/
def Obligations.RefreshPassCounts : Prop :=
  ∀ s : State, configOk s.cfg = true → PowerInv s → s.pwr = .on →
    (s.mode = .mono → ∃ t n, exec .display s = .next t ∧ 1 ≤ n ∧ n ≤ 250 ∧
      t.trace.length = s.trace.length +
        (passCount s.cfg.fullPreamble + 1 + 1 + 2) * passLength s.cfg + 9 + 2 * n) ∧
    (s.mode = .gray → ∃ t n, exec .display s = .next t ∧ 1 ≤ n ∧ n ≤ 250 ∧
      t.trace.length = s.trace.length +
        (passCount s.cfg.fullPreamble + 9 + passCount s.cfg.grayTail) * passLength s.cfg + 9 + 2 * n) ∧
    (s.mode = .mono → s.forcedFull = false → ∃ t n, exec .partialRefresh s = .next t ∧ 1 ≤ n ∧ n ≤ 250 ∧
      t.trace.length = s.trace.length + (3 + 2) * passLength s.cfg + 9 + 2 * n)

/-- R298: the commit of a partial refresh is a plain overwrite of PREV by FB1, and changes nothing else. -/
def Obligations.PartialCommitIsAnOverwrite : Prop :=
  ∀ s : State, BufferInv s → commitPartial s = { s with prev := s.fb1 }

/-! ### Invariants and whole-machine rules -/

/-- Every step keeps the buffers canonical, inside their sizes, blank in the inactive mode, with bit 3 of every FB3
nibble 0 (R39, R82, R237). -/
def Obligations.StepKeepsBufferInv : Prop :=
  ∀ s t : State, BufferInv s → step s = .next t → BufferInv t

/-- Every step keeps the power invariant (R35, R337). -/
def Obligations.StepKeepsPowerInv : Prop :=
  ∀ s t : State, PowerInv s → step s = .next t → PowerInv t

/-- Every step keeps the status invariant (R46, R47, R360, R366). -/
def Obligations.StepKeepsStatusInv : Prop :=
  ∀ s t : State, PowerInv s → StatusInv s → step s = .next t → StatusInv t

/-- Every step takes exactly one host action and keeps the parameters; unless the action is the reset input, the trace
only grows and the sticky errors stay (R46, R49, R237, R370). -/
def Obligations.StepKeepsParametersTraceAndStickyErrors : Prop :=
  ∀ s t : State, step s = .next t →
    t.cfg = s.cfg ∧ t.hostIn = s.hostIn.tail ∧
    (s.hostIn.head? ≠ some .reset →
      s.trace <+: t.trace ∧ (s.errCmd = true → t.errCmd = true) ∧ (s.errNopwr = true → t.errNopwr = true) ∧
      (s.fault = true → t.fault = true) ∧ (s.lastErr ≠ 0 → t.lastErr ≠ 0))

/-- Each piece of state is written only by the commands its rule names: the parameters, BUSY and XPRESENT by none; ROT by
SETROT; MODE by SETMODE; FB1 and FB3 by SETPIX, CLEAR and SETMODE, and in each mode the other mode's buffers by SETMODE
only; PREV and FORCED_FULL by SETMODE and the refreshes; PWR, PWR_FAIL and FAST_DIR by the power commands and the
refreshes; FAST_OUT by those and the scan commands; SHADOW[0] by the power commands, the refreshes, VSTART and the pin
commands on expander 0; SHADOW[1] by those on expander 1; RESULT by PINREAD; ERR_NOPWR by the scan commands; ERR_CMD by
PINMODE, PINWRITE and the reserved opcodes; FAULT by the commands that reach an expander; LAST_ERR and the trace by no
NOP, framebuffer command or SETROT; the environment's answers by the commands that read (R32-R38, R40-R43, R46, R47,
R49, R236). -/
def Obligations.OnlyTheNamedCommandsWrite : Prop :=
  ∀ (i : Instr) (s t : State), exec i s = .next t →
    (t.cfg = s.cfg ∧ t.busy = s.busy ∧ t.hostIn = s.hostIn ∧ t.readData = s.readData ∧ t.envAcks = s.envAcks ∧
      t.xpresent0 = s.xpresent0 ∧ t.xpresent1 = s.xpresent1) ∧
    (kindOf i ≠ .rotation → t.rot = s.rot) ∧
    ((∀ c, kindOf i ≠ .pinRead c) → t.result = s.result ∧ t.envExp = s.envExp) ∧
    (kindOf i ∉ [.power, .refresh, .scanStart, .pin .x0, .pinRead .x0] → t.shadow0 = s.shadow0) ∧
    (kindOf i ∉ [.pin .x1, .pinRead .x1] → t.shadow1 = s.shadow1) ∧
    (kindOf i ∉ [.power, .refresh] → t.pwr = s.pwr ∧ t.pwrFail = s.pwrFail ∧ t.fastDir = s.fastDir ∧
      t.envPmic = s.envPmic) ∧
    (kindOf i ∉ [.power, .refresh, .scanStart, .scanWord] → t.fastOut = s.fastOut) ∧
    (kindOf i ∉ [.scanStart, .scanWord] → t.errNopwr = s.errNopwr) ∧
    (kindOf i ∉ [.pin .x0, .reserved] → t.errCmd = s.errCmd) ∧
    (kindOf i ∉ [.power, .refresh, .scanStart, .pin .x0, .pin .x1, .pinRead .x0, .pinRead .x1] → t.fault = s.fault) ∧
    (kindOf i ∈ [.idle, .buffer, .rotation] → t.lastErr = s.lastErr) ∧
    (kindOf i ∈ [.idle, .buffer, .rotation, .reserved] → t.trace = s.trace ∧ t.draws = s.draws) ∧
    (kindOf i ≠ .buffer → t.fb1 = s.fb1 ∧ t.fb3 = s.fb3) ∧
    ((∀ m, i ≠ .setmode m) →
      t.mode = s.mode ∧ (s.mode = .gray → t.fb1 = s.fb1 ∧ t.prev = s.prev) ∧ (s.mode = .mono → t.fb3 = s.fb3) ∧
      (kindOf i ≠ .refresh → t.prev = s.prev ∧ t.forcedFull = s.forcedFull))

/-- No host pin command changes a core pin of expander 0: its direction, pull-up and latch stay (R172, R173, R372). -/
def Obligations.HostCannotMoveCorePins : Prop :=
  ∀ (s t : State) (c : Chip) (p : Pin) (mode : PinMode) (l : Bool),
    exec (.pinmode c p mode) s = .next t ∨ exec (.pinwrite c p l) s = .next t ∨ exec (.pinread c p) s = .next t →
    ∀ q, q ∈ corePins s.cfg →
      pinIsInput t .x0 q = pinIsInput s .x0 q ∧ pinPullup t .x0 q = pinPullup s .x0 q ∧
      pinLatch t .x0 q = pinLatch s .x0 q

/-- The trace accounts for every output: what a command leaves in FAST_OUT, FAST_DIR and the two shadows is what the
events it appended, taken in order, make of what was there (R13, R41, R43, R96, R175). -/
def Obligations.TraceAccountsForEveryOutput : Prop :=
  ∀ (i : Instr) (s t : State), exec i s = .next t →
    ∃ new, t.trace = s.trace ++ new ∧
      t.fastOut = new.foldl fastOutAfter s.fastOut ∧ t.fastDir = new.foldl fastDirAfter s.fastDir ∧
      t.shadow0 = new.foldl (imageAfter .x0) s.shadow0 ∧ t.shadow1 = new.foldl (imageAfter .x1) s.shadow1

/-! ### Runs under the launch premises of R413 -/

/-- In a run whose polls all see their answer at the first read, no power-on times out (R413: PowerGoodAtFirstPoll; R332,
R338). -/
def Obligations.GoodPowerRunsNeverTimeOut : Prop :=
  ∀ s : State, s.pwrFail = false → s.lastErr ≠ 6 → PowerGoodAtFirstPoll s →
    ∀ t ∈ statesOfRun s, t.pwrFail = false ∧ t.lastErr ≠ 6

/-- In a run in which power never comes good, the panel is never ON between commands and its fast-port lines stay low
(R413: PowerNeverGood; R338, R339). -/
def Obligations.NeverGoodRunsNeverReachOn : Prop :=
  ∀ s : State, s.pwr = .off → s.fastOut &&& panelMask s.cfg = 0 → PowerNeverGood s →
    ∀ t ∈ statesOfRun s, t.pwr = .off ∧ t.fastOut &&& panelMask t.cfg = 0
end

