-- ==== Sys2Proof/Laws/State.lean ====
section
/-! SUPPORT. One lemma per field per named update of the state, each true by unfolding that update once. -/

namespace Sys2Proof.Machine

/-! ### emit -/

@[simp] theorem emit_cfg (e : Event) (s : State) : (emit e s).cfg = s.cfg := rfl
@[simp] theorem emit_mode (e : Event) (s : State) : (emit e s).mode = s.mode := rfl
@[simp] theorem emit_rot (e : Event) (s : State) : (emit e s).rot = s.rot := rfl
@[simp] theorem emit_forcedFull (e : Event) (s : State) : (emit e s).forcedFull = s.forcedFull := rfl
@[simp] theorem emit_pwr (e : Event) (s : State) : (emit e s).pwr = s.pwr := rfl
@[simp] theorem emit_fb1 (e : Event) (s : State) : (emit e s).fb1 = s.fb1 := rfl
@[simp] theorem emit_fb3 (e : Event) (s : State) : (emit e s).fb3 = s.fb3 := rfl
@[simp] theorem emit_prev (e : Event) (s : State) : (emit e s).prev = s.prev := rfl
@[simp] theorem emit_shadow0 (e : Event) (s : State) : (emit e s).shadow0 = s.shadow0 := rfl
@[simp] theorem emit_shadow1 (e : Event) (s : State) : (emit e s).shadow1 = s.shadow1 := rfl
@[simp] theorem emit_xpresent0 (e : Event) (s : State) : (emit e s).xpresent0 = s.xpresent0 := rfl
@[simp] theorem emit_xpresent1 (e : Event) (s : State) : (emit e s).xpresent1 = s.xpresent1 := rfl
@[simp] theorem emit_fastOut (e : Event) (s : State) : (emit e s).fastOut = s.fastOut := rfl
@[simp] theorem emit_fastDir (e : Event) (s : State) : (emit e s).fastDir = s.fastDir := rfl
@[simp] theorem emit_pwrFail (e : Event) (s : State) : (emit e s).pwrFail = s.pwrFail := rfl
@[simp] theorem emit_errCmd (e : Event) (s : State) : (emit e s).errCmd = s.errCmd := rfl
@[simp] theorem emit_errNopwr (e : Event) (s : State) : (emit e s).errNopwr = s.errNopwr := rfl
@[simp] theorem emit_fault (e : Event) (s : State) : (emit e s).fault = s.fault := rfl
@[simp] theorem emit_busy (e : Event) (s : State) : (emit e s).busy = s.busy := rfl
@[simp] theorem emit_lastErr (e : Event) (s : State) : (emit e s).lastErr = s.lastErr := rfl
@[simp] theorem emit_result (e : Event) (s : State) : (emit e s).result = s.result := rfl
@[simp] theorem emit_trace (e : Event) (s : State) : (emit e s).trace = s.trace ++ [e] := rfl
@[simp] theorem emit_hostIn (e : Event) (s : State) : (emit e s).hostIn = s.hostIn := rfl
@[simp] theorem emit_readData (e : Event) (s : State) : (emit e s).readData = s.readData := rfl
@[simp] theorem emit_envAcks (e : Event) (s : State) : (emit e s).envAcks = s.envAcks := rfl
@[simp] theorem emit_envExp (e : Event) (s : State) : (emit e s).envExp = s.envExp := rfl
@[simp] theorem emit_envPmic (e : Event) (s : State) : (emit e s).envPmic = s.envPmic := rfl
@[simp] theorem emit_draws (e : Event) (s : State) : (emit e s).draws = s.draws := rfl

/-! ### setFastOut -/

@[simp] theorem setFastOut_cfg (w : Word) (s : State) : (setFastOut w s).cfg = s.cfg := rfl
@[simp] theorem setFastOut_mode (w : Word) (s : State) : (setFastOut w s).mode = s.mode := rfl
@[simp] theorem setFastOut_rot (w : Word) (s : State) : (setFastOut w s).rot = s.rot := rfl
@[simp] theorem setFastOut_forcedFull (w : Word) (s : State) : (setFastOut w s).forcedFull = s.forcedFull := rfl
@[simp] theorem setFastOut_pwr (w : Word) (s : State) : (setFastOut w s).pwr = s.pwr := rfl
@[simp] theorem setFastOut_fb1 (w : Word) (s : State) : (setFastOut w s).fb1 = s.fb1 := rfl
@[simp] theorem setFastOut_fb3 (w : Word) (s : State) : (setFastOut w s).fb3 = s.fb3 := rfl
@[simp] theorem setFastOut_prev (w : Word) (s : State) : (setFastOut w s).prev = s.prev := rfl
@[simp] theorem setFastOut_shadow0 (w : Word) (s : State) : (setFastOut w s).shadow0 = s.shadow0 := rfl
@[simp] theorem setFastOut_shadow1 (w : Word) (s : State) : (setFastOut w s).shadow1 = s.shadow1 := rfl
@[simp] theorem setFastOut_xpresent0 (w : Word) (s : State) : (setFastOut w s).xpresent0 = s.xpresent0 := rfl
@[simp] theorem setFastOut_xpresent1 (w : Word) (s : State) : (setFastOut w s).xpresent1 = s.xpresent1 := rfl
@[simp] theorem setFastOut_fastOut (w : Word) (s : State) : (setFastOut w s).fastOut = w := rfl
@[simp] theorem setFastOut_fastDir (w : Word) (s : State) : (setFastOut w s).fastDir = s.fastDir := rfl
@[simp] theorem setFastOut_pwrFail (w : Word) (s : State) : (setFastOut w s).pwrFail = s.pwrFail := rfl
@[simp] theorem setFastOut_errCmd (w : Word) (s : State) : (setFastOut w s).errCmd = s.errCmd := rfl
@[simp] theorem setFastOut_errNopwr (w : Word) (s : State) : (setFastOut w s).errNopwr = s.errNopwr := rfl
@[simp] theorem setFastOut_fault (w : Word) (s : State) : (setFastOut w s).fault = s.fault := rfl
@[simp] theorem setFastOut_busy (w : Word) (s : State) : (setFastOut w s).busy = s.busy := rfl
@[simp] theorem setFastOut_lastErr (w : Word) (s : State) : (setFastOut w s).lastErr = s.lastErr := rfl
@[simp] theorem setFastOut_result (w : Word) (s : State) : (setFastOut w s).result = s.result := rfl
@[simp] theorem setFastOut_trace (w : Word) (s : State) : (setFastOut w s).trace = s.trace := rfl
@[simp] theorem setFastOut_hostIn (w : Word) (s : State) : (setFastOut w s).hostIn = s.hostIn := rfl
@[simp] theorem setFastOut_readData (w : Word) (s : State) : (setFastOut w s).readData = s.readData := rfl
@[simp] theorem setFastOut_envAcks (w : Word) (s : State) : (setFastOut w s).envAcks = s.envAcks := rfl
@[simp] theorem setFastOut_envExp (w : Word) (s : State) : (setFastOut w s).envExp = s.envExp := rfl
@[simp] theorem setFastOut_envPmic (w : Word) (s : State) : (setFastOut w s).envPmic = s.envPmic := rfl
@[simp] theorem setFastOut_draws (w : Word) (s : State) : (setFastOut w s).draws = s.draws := rfl

/-! ### setFastDir -/

@[simp] theorem setFastDir_cfg (w : Word) (s : State) : (setFastDir w s).cfg = s.cfg := rfl
@[simp] theorem setFastDir_mode (w : Word) (s : State) : (setFastDir w s).mode = s.mode := rfl
@[simp] theorem setFastDir_rot (w : Word) (s : State) : (setFastDir w s).rot = s.rot := rfl
@[simp] theorem setFastDir_forcedFull (w : Word) (s : State) : (setFastDir w s).forcedFull = s.forcedFull := rfl
@[simp] theorem setFastDir_pwr (w : Word) (s : State) : (setFastDir w s).pwr = s.pwr := rfl
@[simp] theorem setFastDir_fb1 (w : Word) (s : State) : (setFastDir w s).fb1 = s.fb1 := rfl
@[simp] theorem setFastDir_fb3 (w : Word) (s : State) : (setFastDir w s).fb3 = s.fb3 := rfl
@[simp] theorem setFastDir_prev (w : Word) (s : State) : (setFastDir w s).prev = s.prev := rfl
@[simp] theorem setFastDir_shadow0 (w : Word) (s : State) : (setFastDir w s).shadow0 = s.shadow0 := rfl
@[simp] theorem setFastDir_shadow1 (w : Word) (s : State) : (setFastDir w s).shadow1 = s.shadow1 := rfl
@[simp] theorem setFastDir_xpresent0 (w : Word) (s : State) : (setFastDir w s).xpresent0 = s.xpresent0 := rfl
@[simp] theorem setFastDir_xpresent1 (w : Word) (s : State) : (setFastDir w s).xpresent1 = s.xpresent1 := rfl
@[simp] theorem setFastDir_fastOut (w : Word) (s : State) : (setFastDir w s).fastOut = s.fastOut := rfl
@[simp] theorem setFastDir_fastDir (w : Word) (s : State) : (setFastDir w s).fastDir = w := rfl
@[simp] theorem setFastDir_pwrFail (w : Word) (s : State) : (setFastDir w s).pwrFail = s.pwrFail := rfl
@[simp] theorem setFastDir_errCmd (w : Word) (s : State) : (setFastDir w s).errCmd = s.errCmd := rfl
@[simp] theorem setFastDir_errNopwr (w : Word) (s : State) : (setFastDir w s).errNopwr = s.errNopwr := rfl
@[simp] theorem setFastDir_fault (w : Word) (s : State) : (setFastDir w s).fault = s.fault := rfl
@[simp] theorem setFastDir_busy (w : Word) (s : State) : (setFastDir w s).busy = s.busy := rfl
@[simp] theorem setFastDir_lastErr (w : Word) (s : State) : (setFastDir w s).lastErr = s.lastErr := rfl
@[simp] theorem setFastDir_result (w : Word) (s : State) : (setFastDir w s).result = s.result := rfl
@[simp] theorem setFastDir_trace (w : Word) (s : State) : (setFastDir w s).trace = s.trace := rfl
@[simp] theorem setFastDir_hostIn (w : Word) (s : State) : (setFastDir w s).hostIn = s.hostIn := rfl
@[simp] theorem setFastDir_readData (w : Word) (s : State) : (setFastDir w s).readData = s.readData := rfl
@[simp] theorem setFastDir_envAcks (w : Word) (s : State) : (setFastDir w s).envAcks = s.envAcks := rfl
@[simp] theorem setFastDir_envExp (w : Word) (s : State) : (setFastDir w s).envExp = s.envExp := rfl
@[simp] theorem setFastDir_envPmic (w : Word) (s : State) : (setFastDir w s).envPmic = s.envPmic := rfl
@[simp] theorem setFastDir_draws (w : Word) (s : State) : (setFastDir w s).draws = s.draws := rfl

/-! ### setPwr -/

@[simp] theorem setPwr_cfg (p : Pwr) (s : State) : (setPwr p s).cfg = s.cfg := rfl
@[simp] theorem setPwr_mode (p : Pwr) (s : State) : (setPwr p s).mode = s.mode := rfl
@[simp] theorem setPwr_rot (p : Pwr) (s : State) : (setPwr p s).rot = s.rot := rfl
@[simp] theorem setPwr_forcedFull (p : Pwr) (s : State) : (setPwr p s).forcedFull = s.forcedFull := rfl
@[simp] theorem setPwr_pwr (p : Pwr) (s : State) : (setPwr p s).pwr = p := rfl
@[simp] theorem setPwr_fb1 (p : Pwr) (s : State) : (setPwr p s).fb1 = s.fb1 := rfl
@[simp] theorem setPwr_fb3 (p : Pwr) (s : State) : (setPwr p s).fb3 = s.fb3 := rfl
@[simp] theorem setPwr_prev (p : Pwr) (s : State) : (setPwr p s).prev = s.prev := rfl
@[simp] theorem setPwr_shadow0 (p : Pwr) (s : State) : (setPwr p s).shadow0 = s.shadow0 := rfl
@[simp] theorem setPwr_shadow1 (p : Pwr) (s : State) : (setPwr p s).shadow1 = s.shadow1 := rfl
@[simp] theorem setPwr_xpresent0 (p : Pwr) (s : State) : (setPwr p s).xpresent0 = s.xpresent0 := rfl
@[simp] theorem setPwr_xpresent1 (p : Pwr) (s : State) : (setPwr p s).xpresent1 = s.xpresent1 := rfl
@[simp] theorem setPwr_fastOut (p : Pwr) (s : State) : (setPwr p s).fastOut = s.fastOut := rfl
@[simp] theorem setPwr_fastDir (p : Pwr) (s : State) : (setPwr p s).fastDir = s.fastDir := rfl
@[simp] theorem setPwr_pwrFail (p : Pwr) (s : State) : (setPwr p s).pwrFail = s.pwrFail := rfl
@[simp] theorem setPwr_errCmd (p : Pwr) (s : State) : (setPwr p s).errCmd = s.errCmd := rfl
@[simp] theorem setPwr_errNopwr (p : Pwr) (s : State) : (setPwr p s).errNopwr = s.errNopwr := rfl
@[simp] theorem setPwr_fault (p : Pwr) (s : State) : (setPwr p s).fault = s.fault := rfl
@[simp] theorem setPwr_busy (p : Pwr) (s : State) : (setPwr p s).busy = s.busy := rfl
@[simp] theorem setPwr_lastErr (p : Pwr) (s : State) : (setPwr p s).lastErr = s.lastErr := rfl
@[simp] theorem setPwr_result (p : Pwr) (s : State) : (setPwr p s).result = s.result := rfl
@[simp] theorem setPwr_trace (p : Pwr) (s : State) : (setPwr p s).trace = s.trace := rfl
@[simp] theorem setPwr_hostIn (p : Pwr) (s : State) : (setPwr p s).hostIn = s.hostIn := rfl
@[simp] theorem setPwr_readData (p : Pwr) (s : State) : (setPwr p s).readData = s.readData := rfl
@[simp] theorem setPwr_envAcks (p : Pwr) (s : State) : (setPwr p s).envAcks = s.envAcks := rfl
@[simp] theorem setPwr_envExp (p : Pwr) (s : State) : (setPwr p s).envExp = s.envExp := rfl
@[simp] theorem setPwr_envPmic (p : Pwr) (s : State) : (setPwr p s).envPmic = s.envPmic := rfl
@[simp] theorem setPwr_draws (p : Pwr) (s : State) : (setPwr p s).draws = s.draws := rfl

/-! ### setResult -/

@[simp] theorem setResult_cfg (w : Word) (s : State) : (setResult w s).cfg = s.cfg := rfl
@[simp] theorem setResult_mode (w : Word) (s : State) : (setResult w s).mode = s.mode := rfl
@[simp] theorem setResult_rot (w : Word) (s : State) : (setResult w s).rot = s.rot := rfl
@[simp] theorem setResult_forcedFull (w : Word) (s : State) : (setResult w s).forcedFull = s.forcedFull := rfl
@[simp] theorem setResult_pwr (w : Word) (s : State) : (setResult w s).pwr = s.pwr := rfl
@[simp] theorem setResult_fb1 (w : Word) (s : State) : (setResult w s).fb1 = s.fb1 := rfl
@[simp] theorem setResult_fb3 (w : Word) (s : State) : (setResult w s).fb3 = s.fb3 := rfl
@[simp] theorem setResult_prev (w : Word) (s : State) : (setResult w s).prev = s.prev := rfl
@[simp] theorem setResult_shadow0 (w : Word) (s : State) : (setResult w s).shadow0 = s.shadow0 := rfl
@[simp] theorem setResult_shadow1 (w : Word) (s : State) : (setResult w s).shadow1 = s.shadow1 := rfl
@[simp] theorem setResult_xpresent0 (w : Word) (s : State) : (setResult w s).xpresent0 = s.xpresent0 := rfl
@[simp] theorem setResult_xpresent1 (w : Word) (s : State) : (setResult w s).xpresent1 = s.xpresent1 := rfl
@[simp] theorem setResult_fastOut (w : Word) (s : State) : (setResult w s).fastOut = s.fastOut := rfl
@[simp] theorem setResult_fastDir (w : Word) (s : State) : (setResult w s).fastDir = s.fastDir := rfl
@[simp] theorem setResult_pwrFail (w : Word) (s : State) : (setResult w s).pwrFail = s.pwrFail := rfl
@[simp] theorem setResult_errCmd (w : Word) (s : State) : (setResult w s).errCmd = s.errCmd := rfl
@[simp] theorem setResult_errNopwr (w : Word) (s : State) : (setResult w s).errNopwr = s.errNopwr := rfl
@[simp] theorem setResult_fault (w : Word) (s : State) : (setResult w s).fault = s.fault := rfl
@[simp] theorem setResult_busy (w : Word) (s : State) : (setResult w s).busy = s.busy := rfl
@[simp] theorem setResult_lastErr (w : Word) (s : State) : (setResult w s).lastErr = s.lastErr := rfl
@[simp] theorem setResult_result (w : Word) (s : State) : (setResult w s).result = w := rfl
@[simp] theorem setResult_trace (w : Word) (s : State) : (setResult w s).trace = s.trace := rfl
@[simp] theorem setResult_hostIn (w : Word) (s : State) : (setResult w s).hostIn = s.hostIn := rfl
@[simp] theorem setResult_readData (w : Word) (s : State) : (setResult w s).readData = s.readData := rfl
@[simp] theorem setResult_envAcks (w : Word) (s : State) : (setResult w s).envAcks = s.envAcks := rfl
@[simp] theorem setResult_envExp (w : Word) (s : State) : (setResult w s).envExp = s.envExp := rfl
@[simp] theorem setResult_envPmic (w : Word) (s : State) : (setResult w s).envPmic = s.envPmic := rfl
@[simp] theorem setResult_draws (w : Word) (s : State) : (setResult w s).draws = s.draws := rfl

/-! ### setBusy -/

@[simp] theorem setBusy_cfg (b : Bool) (s : State) : (setBusy b s).cfg = s.cfg := rfl
@[simp] theorem setBusy_mode (b : Bool) (s : State) : (setBusy b s).mode = s.mode := rfl
@[simp] theorem setBusy_rot (b : Bool) (s : State) : (setBusy b s).rot = s.rot := rfl
@[simp] theorem setBusy_forcedFull (b : Bool) (s : State) : (setBusy b s).forcedFull = s.forcedFull := rfl
@[simp] theorem setBusy_pwr (b : Bool) (s : State) : (setBusy b s).pwr = s.pwr := rfl
@[simp] theorem setBusy_fb1 (b : Bool) (s : State) : (setBusy b s).fb1 = s.fb1 := rfl
@[simp] theorem setBusy_fb3 (b : Bool) (s : State) : (setBusy b s).fb3 = s.fb3 := rfl
@[simp] theorem setBusy_prev (b : Bool) (s : State) : (setBusy b s).prev = s.prev := rfl
@[simp] theorem setBusy_shadow0 (b : Bool) (s : State) : (setBusy b s).shadow0 = s.shadow0 := rfl
@[simp] theorem setBusy_shadow1 (b : Bool) (s : State) : (setBusy b s).shadow1 = s.shadow1 := rfl
@[simp] theorem setBusy_xpresent0 (b : Bool) (s : State) : (setBusy b s).xpresent0 = s.xpresent0 := rfl
@[simp] theorem setBusy_xpresent1 (b : Bool) (s : State) : (setBusy b s).xpresent1 = s.xpresent1 := rfl
@[simp] theorem setBusy_fastOut (b : Bool) (s : State) : (setBusy b s).fastOut = s.fastOut := rfl
@[simp] theorem setBusy_fastDir (b : Bool) (s : State) : (setBusy b s).fastDir = s.fastDir := rfl
@[simp] theorem setBusy_pwrFail (b : Bool) (s : State) : (setBusy b s).pwrFail = s.pwrFail := rfl
@[simp] theorem setBusy_errCmd (b : Bool) (s : State) : (setBusy b s).errCmd = s.errCmd := rfl
@[simp] theorem setBusy_errNopwr (b : Bool) (s : State) : (setBusy b s).errNopwr = s.errNopwr := rfl
@[simp] theorem setBusy_fault (b : Bool) (s : State) : (setBusy b s).fault = s.fault := rfl
@[simp] theorem setBusy_busy (b : Bool) (s : State) : (setBusy b s).busy = b := rfl
@[simp] theorem setBusy_lastErr (b : Bool) (s : State) : (setBusy b s).lastErr = s.lastErr := rfl
@[simp] theorem setBusy_result (b : Bool) (s : State) : (setBusy b s).result = s.result := rfl
@[simp] theorem setBusy_trace (b : Bool) (s : State) : (setBusy b s).trace = s.trace := rfl
@[simp] theorem setBusy_hostIn (b : Bool) (s : State) : (setBusy b s).hostIn = s.hostIn := rfl
@[simp] theorem setBusy_readData (b : Bool) (s : State) : (setBusy b s).readData = s.readData := rfl
@[simp] theorem setBusy_envAcks (b : Bool) (s : State) : (setBusy b s).envAcks = s.envAcks := rfl
@[simp] theorem setBusy_envExp (b : Bool) (s : State) : (setBusy b s).envExp = s.envExp := rfl
@[simp] theorem setBusy_envPmic (b : Bool) (s : State) : (setBusy b s).envPmic = s.envPmic := rfl
@[simp] theorem setBusy_draws (b : Bool) (s : State) : (setBusy b s).draws = s.draws := rfl

/-! ### prevPut -/

@[simp] theorem prevPut_cfg (i : Nat) (v : Byte) (s : State) : (prevPut i v s).cfg = s.cfg := rfl
@[simp] theorem prevPut_mode (i : Nat) (v : Byte) (s : State) : (prevPut i v s).mode = s.mode := rfl
@[simp] theorem prevPut_rot (i : Nat) (v : Byte) (s : State) : (prevPut i v s).rot = s.rot := rfl
@[simp] theorem prevPut_forcedFull (i : Nat) (v : Byte) (s : State) : (prevPut i v s).forcedFull = s.forcedFull := rfl
@[simp] theorem prevPut_pwr (i : Nat) (v : Byte) (s : State) : (prevPut i v s).pwr = s.pwr := rfl
@[simp] theorem prevPut_fb1 (i : Nat) (v : Byte) (s : State) : (prevPut i v s).fb1 = s.fb1 := rfl
@[simp] theorem prevPut_fb3 (i : Nat) (v : Byte) (s : State) : (prevPut i v s).fb3 = s.fb3 := rfl
@[simp] theorem prevPut_prev (i : Nat) (v : Byte) (s : State) : (prevPut i v s).prev = Memory.write monoBlank s.prev i v := rfl
@[simp] theorem prevPut_shadow0 (i : Nat) (v : Byte) (s : State) : (prevPut i v s).shadow0 = s.shadow0 := rfl
@[simp] theorem prevPut_shadow1 (i : Nat) (v : Byte) (s : State) : (prevPut i v s).shadow1 = s.shadow1 := rfl
@[simp] theorem prevPut_xpresent0 (i : Nat) (v : Byte) (s : State) : (prevPut i v s).xpresent0 = s.xpresent0 := rfl
@[simp] theorem prevPut_xpresent1 (i : Nat) (v : Byte) (s : State) : (prevPut i v s).xpresent1 = s.xpresent1 := rfl
@[simp] theorem prevPut_fastOut (i : Nat) (v : Byte) (s : State) : (prevPut i v s).fastOut = s.fastOut := rfl
@[simp] theorem prevPut_fastDir (i : Nat) (v : Byte) (s : State) : (prevPut i v s).fastDir = s.fastDir := rfl
@[simp] theorem prevPut_pwrFail (i : Nat) (v : Byte) (s : State) : (prevPut i v s).pwrFail = s.pwrFail := rfl
@[simp] theorem prevPut_errCmd (i : Nat) (v : Byte) (s : State) : (prevPut i v s).errCmd = s.errCmd := rfl
@[simp] theorem prevPut_errNopwr (i : Nat) (v : Byte) (s : State) : (prevPut i v s).errNopwr = s.errNopwr := rfl
@[simp] theorem prevPut_fault (i : Nat) (v : Byte) (s : State) : (prevPut i v s).fault = s.fault := rfl
@[simp] theorem prevPut_busy (i : Nat) (v : Byte) (s : State) : (prevPut i v s).busy = s.busy := rfl
@[simp] theorem prevPut_lastErr (i : Nat) (v : Byte) (s : State) : (prevPut i v s).lastErr = s.lastErr := rfl
@[simp] theorem prevPut_result (i : Nat) (v : Byte) (s : State) : (prevPut i v s).result = s.result := rfl
@[simp] theorem prevPut_trace (i : Nat) (v : Byte) (s : State) : (prevPut i v s).trace = s.trace := rfl
@[simp] theorem prevPut_hostIn (i : Nat) (v : Byte) (s : State) : (prevPut i v s).hostIn = s.hostIn := rfl
@[simp] theorem prevPut_readData (i : Nat) (v : Byte) (s : State) : (prevPut i v s).readData = s.readData := rfl
@[simp] theorem prevPut_envAcks (i : Nat) (v : Byte) (s : State) : (prevPut i v s).envAcks = s.envAcks := rfl
@[simp] theorem prevPut_envExp (i : Nat) (v : Byte) (s : State) : (prevPut i v s).envExp = s.envExp := rfl
@[simp] theorem prevPut_envPmic (i : Nat) (v : Byte) (s : State) : (prevPut i v s).envPmic = s.envPmic := rfl
@[simp] theorem prevPut_draws (i : Nat) (v : Byte) (s : State) : (prevPut i v s).draws = s.draws := rfl

/-! ### setShadow, setXpresent: the named expander's field only -/

@[simp] theorem setShadow_cfg (c : Chip) (v : Vector Byte 22) (s : State) : (setShadow c v s).cfg = s.cfg := by cases c <;> rfl
@[simp] theorem setShadow_mode (c : Chip) (v : Vector Byte 22) (s : State) : (setShadow c v s).mode = s.mode := by cases c <;> rfl
@[simp] theorem setShadow_rot (c : Chip) (v : Vector Byte 22) (s : State) : (setShadow c v s).rot = s.rot := by cases c <;> rfl
@[simp] theorem setShadow_forcedFull (c : Chip) (v : Vector Byte 22) (s : State) : (setShadow c v s).forcedFull = s.forcedFull := by cases c <;> rfl
@[simp] theorem setShadow_pwr (c : Chip) (v : Vector Byte 22) (s : State) : (setShadow c v s).pwr = s.pwr := by cases c <;> rfl
@[simp] theorem setShadow_fb1 (c : Chip) (v : Vector Byte 22) (s : State) : (setShadow c v s).fb1 = s.fb1 := by cases c <;> rfl
@[simp] theorem setShadow_fb3 (c : Chip) (v : Vector Byte 22) (s : State) : (setShadow c v s).fb3 = s.fb3 := by cases c <;> rfl
@[simp] theorem setShadow_prev (c : Chip) (v : Vector Byte 22) (s : State) : (setShadow c v s).prev = s.prev := by cases c <;> rfl
@[simp] theorem setShadow_shadow0_self (v : Vector Byte 22) (s : State) : (setShadow .x0 v s).shadow0 = v := rfl
@[simp] theorem setShadow_shadow0_other (v : Vector Byte 22) (s : State) : (setShadow .x1 v s).shadow0 = s.shadow0 := rfl
@[simp] theorem setShadow_shadow1_self (v : Vector Byte 22) (s : State) : (setShadow .x1 v s).shadow1 = v := rfl
@[simp] theorem setShadow_shadow1_other (v : Vector Byte 22) (s : State) : (setShadow .x0 v s).shadow1 = s.shadow1 := rfl
@[simp] theorem setShadow_xpresent0 (c : Chip) (v : Vector Byte 22) (s : State) : (setShadow c v s).xpresent0 = s.xpresent0 := by cases c <;> rfl
@[simp] theorem setShadow_xpresent1 (c : Chip) (v : Vector Byte 22) (s : State) : (setShadow c v s).xpresent1 = s.xpresent1 := by cases c <;> rfl
@[simp] theorem setShadow_fastOut (c : Chip) (v : Vector Byte 22) (s : State) : (setShadow c v s).fastOut = s.fastOut := by cases c <;> rfl
@[simp] theorem setShadow_fastDir (c : Chip) (v : Vector Byte 22) (s : State) : (setShadow c v s).fastDir = s.fastDir := by cases c <;> rfl
@[simp] theorem setShadow_pwrFail (c : Chip) (v : Vector Byte 22) (s : State) : (setShadow c v s).pwrFail = s.pwrFail := by cases c <;> rfl
@[simp] theorem setShadow_errCmd (c : Chip) (v : Vector Byte 22) (s : State) : (setShadow c v s).errCmd = s.errCmd := by cases c <;> rfl
@[simp] theorem setShadow_errNopwr (c : Chip) (v : Vector Byte 22) (s : State) : (setShadow c v s).errNopwr = s.errNopwr := by cases c <;> rfl
@[simp] theorem setShadow_fault (c : Chip) (v : Vector Byte 22) (s : State) : (setShadow c v s).fault = s.fault := by cases c <;> rfl
@[simp] theorem setShadow_busy (c : Chip) (v : Vector Byte 22) (s : State) : (setShadow c v s).busy = s.busy := by cases c <;> rfl
@[simp] theorem setShadow_lastErr (c : Chip) (v : Vector Byte 22) (s : State) : (setShadow c v s).lastErr = s.lastErr := by cases c <;> rfl
@[simp] theorem setShadow_result (c : Chip) (v : Vector Byte 22) (s : State) : (setShadow c v s).result = s.result := by cases c <;> rfl
@[simp] theorem setShadow_trace (c : Chip) (v : Vector Byte 22) (s : State) : (setShadow c v s).trace = s.trace := by cases c <;> rfl
@[simp] theorem setShadow_hostIn (c : Chip) (v : Vector Byte 22) (s : State) : (setShadow c v s).hostIn = s.hostIn := by cases c <;> rfl
@[simp] theorem setShadow_readData (c : Chip) (v : Vector Byte 22) (s : State) : (setShadow c v s).readData = s.readData := by cases c <;> rfl
@[simp] theorem setShadow_envAcks (c : Chip) (v : Vector Byte 22) (s : State) : (setShadow c v s).envAcks = s.envAcks := by cases c <;> rfl
@[simp] theorem setShadow_envExp (c : Chip) (v : Vector Byte 22) (s : State) : (setShadow c v s).envExp = s.envExp := by cases c <;> rfl
@[simp] theorem setShadow_envPmic (c : Chip) (v : Vector Byte 22) (s : State) : (setShadow c v s).envPmic = s.envPmic := by cases c <;> rfl
@[simp] theorem setShadow_draws (c : Chip) (v : Vector Byte 22) (s : State) : (setShadow c v s).draws = s.draws := by cases c <;> rfl

@[simp] theorem setXpresent_cfg (c : Chip) (b : Bool) (s : State) : (setXpresent c b s).cfg = s.cfg := by cases c <;> rfl
@[simp] theorem setXpresent_mode (c : Chip) (b : Bool) (s : State) : (setXpresent c b s).mode = s.mode := by cases c <;> rfl
@[simp] theorem setXpresent_rot (c : Chip) (b : Bool) (s : State) : (setXpresent c b s).rot = s.rot := by cases c <;> rfl
@[simp] theorem setXpresent_forcedFull (c : Chip) (b : Bool) (s : State) : (setXpresent c b s).forcedFull = s.forcedFull := by cases c <;> rfl
@[simp] theorem setXpresent_pwr (c : Chip) (b : Bool) (s : State) : (setXpresent c b s).pwr = s.pwr := by cases c <;> rfl
@[simp] theorem setXpresent_fb1 (c : Chip) (b : Bool) (s : State) : (setXpresent c b s).fb1 = s.fb1 := by cases c <;> rfl
@[simp] theorem setXpresent_fb3 (c : Chip) (b : Bool) (s : State) : (setXpresent c b s).fb3 = s.fb3 := by cases c <;> rfl
@[simp] theorem setXpresent_prev (c : Chip) (b : Bool) (s : State) : (setXpresent c b s).prev = s.prev := by cases c <;> rfl
@[simp] theorem setXpresent_shadow0 (c : Chip) (b : Bool) (s : State) : (setXpresent c b s).shadow0 = s.shadow0 := by cases c <;> rfl
@[simp] theorem setXpresent_shadow1 (c : Chip) (b : Bool) (s : State) : (setXpresent c b s).shadow1 = s.shadow1 := by cases c <;> rfl
@[simp] theorem setXpresent_xpresent0_self (b : Bool) (s : State) : (setXpresent .x0 b s).xpresent0 = b := rfl
@[simp] theorem setXpresent_xpresent0_other (b : Bool) (s : State) : (setXpresent .x1 b s).xpresent0 = s.xpresent0 := rfl
@[simp] theorem setXpresent_xpresent1_self (b : Bool) (s : State) : (setXpresent .x1 b s).xpresent1 = b := rfl
@[simp] theorem setXpresent_xpresent1_other (b : Bool) (s : State) : (setXpresent .x0 b s).xpresent1 = s.xpresent1 := rfl
@[simp] theorem setXpresent_fastOut (c : Chip) (b : Bool) (s : State) : (setXpresent c b s).fastOut = s.fastOut := by cases c <;> rfl
@[simp] theorem setXpresent_fastDir (c : Chip) (b : Bool) (s : State) : (setXpresent c b s).fastDir = s.fastDir := by cases c <;> rfl
@[simp] theorem setXpresent_pwrFail (c : Chip) (b : Bool) (s : State) : (setXpresent c b s).pwrFail = s.pwrFail := by cases c <;> rfl
@[simp] theorem setXpresent_errCmd (c : Chip) (b : Bool) (s : State) : (setXpresent c b s).errCmd = s.errCmd := by cases c <;> rfl
@[simp] theorem setXpresent_errNopwr (c : Chip) (b : Bool) (s : State) : (setXpresent c b s).errNopwr = s.errNopwr := by cases c <;> rfl
@[simp] theorem setXpresent_fault (c : Chip) (b : Bool) (s : State) : (setXpresent c b s).fault = s.fault := by cases c <;> rfl
@[simp] theorem setXpresent_busy (c : Chip) (b : Bool) (s : State) : (setXpresent c b s).busy = s.busy := by cases c <;> rfl
@[simp] theorem setXpresent_lastErr (c : Chip) (b : Bool) (s : State) : (setXpresent c b s).lastErr = s.lastErr := by cases c <;> rfl
@[simp] theorem setXpresent_result (c : Chip) (b : Bool) (s : State) : (setXpresent c b s).result = s.result := by cases c <;> rfl
@[simp] theorem setXpresent_trace (c : Chip) (b : Bool) (s : State) : (setXpresent c b s).trace = s.trace := by cases c <;> rfl
@[simp] theorem setXpresent_hostIn (c : Chip) (b : Bool) (s : State) : (setXpresent c b s).hostIn = s.hostIn := by cases c <;> rfl
@[simp] theorem setXpresent_readData (c : Chip) (b : Bool) (s : State) : (setXpresent c b s).readData = s.readData := by cases c <;> rfl
@[simp] theorem setXpresent_envAcks (c : Chip) (b : Bool) (s : State) : (setXpresent c b s).envAcks = s.envAcks := by cases c <;> rfl
@[simp] theorem setXpresent_envExp (c : Chip) (b : Bool) (s : State) : (setXpresent c b s).envExp = s.envExp := by cases c <;> rfl
@[simp] theorem setXpresent_envPmic (c : Chip) (b : Bool) (s : State) : (setXpresent c b s).envPmic = s.envPmic := by cases c <;> rfl
@[simp] theorem setXpresent_draws (c : Chip) (b : Bool) (s : State) : (setXpresent c b s).draws = s.draws := by cases c <;> rfl

/-! ### recordError: the error's flag and LAST_ERR only -/

@[simp] theorem recordError_cfg (e : ErrCode) (s : State) : (recordError e s).cfg = s.cfg := by cases e <;> rfl
@[simp] theorem recordError_mode (e : ErrCode) (s : State) : (recordError e s).mode = s.mode := by cases e <;> rfl
@[simp] theorem recordError_rot (e : ErrCode) (s : State) : (recordError e s).rot = s.rot := by cases e <;> rfl
@[simp] theorem recordError_forcedFull (e : ErrCode) (s : State) : (recordError e s).forcedFull = s.forcedFull := by cases e <;> rfl
@[simp] theorem recordError_pwr (e : ErrCode) (s : State) : (recordError e s).pwr = s.pwr := by cases e <;> rfl
@[simp] theorem recordError_fb1 (e : ErrCode) (s : State) : (recordError e s).fb1 = s.fb1 := by cases e <;> rfl
@[simp] theorem recordError_fb3 (e : ErrCode) (s : State) : (recordError e s).fb3 = s.fb3 := by cases e <;> rfl
@[simp] theorem recordError_prev (e : ErrCode) (s : State) : (recordError e s).prev = s.prev := by cases e <;> rfl
@[simp] theorem recordError_shadow0 (e : ErrCode) (s : State) : (recordError e s).shadow0 = s.shadow0 := by cases e <;> rfl
@[simp] theorem recordError_shadow1 (e : ErrCode) (s : State) : (recordError e s).shadow1 = s.shadow1 := by cases e <;> rfl
@[simp] theorem recordError_xpresent0 (e : ErrCode) (s : State) : (recordError e s).xpresent0 = s.xpresent0 := by cases e <;> rfl
@[simp] theorem recordError_xpresent1 (e : ErrCode) (s : State) : (recordError e s).xpresent1 = s.xpresent1 := by cases e <;> rfl
@[simp] theorem recordError_fastOut (e : ErrCode) (s : State) : (recordError e s).fastOut = s.fastOut := by cases e <;> rfl
@[simp] theorem recordError_fastDir (e : ErrCode) (s : State) : (recordError e s).fastDir = s.fastDir := by cases e <;> rfl
@[simp] theorem recordError_pwrFail (e : ErrCode) (s : State) :
    (recordError e s).pwrFail = (s.pwrFail || decide (e = .pgTimeout)) := by
  cases e <;> simp [recordError, setErrFlag]
@[simp] theorem recordError_errCmd (e : ErrCode) (s : State) :
    (recordError e s).errCmd = (s.errCmd || decide (e = .reservedOpcode ∨ e = .reservedField ∨ e = .busy ∨ e = .corePin)) := by
  cases e <;> simp [recordError, setErrFlag]
@[simp] theorem recordError_errNopwr (e : ErrCode) (s : State) :
    (recordError e s).errNopwr = (s.errNopwr || decide (e = .noPower)) := by
  cases e <;> simp [recordError, setErrFlag]
@[simp] theorem recordError_fault (e : ErrCode) (s : State) :
    (recordError e s).fault = (s.fault || decide (e = .absent)) := by
  cases e <;> simp [recordError, setErrFlag]
@[simp] theorem recordError_busy (e : ErrCode) (s : State) : (recordError e s).busy = s.busy := by cases e <;> rfl
@[simp] theorem recordError_lastErr (e : ErrCode) (s : State) : (recordError e s).lastErr = e.num := rfl
@[simp] theorem recordError_result (e : ErrCode) (s : State) : (recordError e s).result = s.result := by cases e <;> rfl
@[simp] theorem recordError_trace (e : ErrCode) (s : State) : (recordError e s).trace = s.trace := by cases e <;> rfl
@[simp] theorem recordError_hostIn (e : ErrCode) (s : State) : (recordError e s).hostIn = s.hostIn := by cases e <;> rfl
@[simp] theorem recordError_readData (e : ErrCode) (s : State) : (recordError e s).readData = s.readData := by cases e <;> rfl
@[simp] theorem recordError_envAcks (e : ErrCode) (s : State) : (recordError e s).envAcks = s.envAcks := by cases e <;> rfl
@[simp] theorem recordError_envExp (e : ErrCode) (s : State) : (recordError e s).envExp = s.envExp := by cases e <;> rfl
@[simp] theorem recordError_envPmic (e : ErrCode) (s : State) : (recordError e s).envPmic = s.envPmic := by cases e <;> rfl
@[simp] theorem recordError_draws (e : ErrCode) (s : State) : (recordError e s).draws = s.draws := by cases e <;> rfl

end Sys2Proof.Machine
end

