-- ==== Sys2Proof/Laws/Inputs.lean ====
section
/-! SUPPORT. What the environment's answers and the host's actions do, said once: the tapes, the expander
initialisation, and the step that takes the first action. -/

namespace Sys2Proof.Machine

/-! ### Answers that stand on a tape -/

theorem drawAck_cons {s : State} {b : Bool} {rest : List Bool} (h : s.envAcks = b :: rest) :
    drawAck s = (b, { s with envAcks := rest }) := by
  simp [drawAck, h]

theorem drawExp_cons {s : State} {b : Byte} {rest : List Byte} (h : s.envExp = b :: rest) :
    drawExp s = (b, { s with envExp := rest }) := by
  simp [drawExp, h]

/-- A block read takes its bytes from the tape in order. -/
theorem drawExpBytes_append {s : State} {bs rest : List Byte} (h : s.envExp = bs ++ rest) :
    drawExpBytes bs.length s = (bs, { s with envExp := rest }) := by
  induction bs generalizing s with
  | nil => simp only [List.nil_append] at h; rw [← h]; rfl
  | cons b bs ih =>
    rw [List.length_cons, drawExpBytes, drawExp_cons (rest := bs ++ rest) h]
    rw [ih (s := { s with envExp := bs ++ rest }) rfl]

/-- A read takes one answer, from the tape or free, and nothing else (00 R14). -/
theorem drawExp_frame (s : State) : ∃ e d, (drawExp s).2 = { s with envExp := e, draws := d } := by
  unfold drawExp; split <;> exact ⟨_, _, rfl⟩

theorem drawAck_frame (s : State) : ∃ a d, (drawAck s).2 = { s with envAcks := a, draws := d } := by
  unfold drawAck; split <;> exact ⟨_, _, rfl⟩

theorem drawExpBytes_frame (n : Nat) (s : State) :
    ∃ e d, (drawExpBytes n s).2 = { s with envExp := e, draws := d } := by
  induction n generalizing s with
  | zero => exact ⟨s.envExp, s.draws, rfl⟩
  | succ n ih =>
    obtain ⟨e, d, h⟩ := drawExp_frame s
    obtain ⟨e', d', h'⟩ := ih (drawExp s).2
    exact ⟨e', d', h'.trans (by rw [h])⟩

theorem drawExpBytes_length (n : Nat) (s : State) : (drawExpBytes n s).1.length = n := by
  induction n generalizing s with
  | zero => rfl
  | succ n ih => simp [drawExpBytes, ih]

/-- Free bytes leave the tapes alone. -/
theorem freeBytes_frame (n : Nat) (s : State) : ∃ d, (freeBytes n s).2 = { s with draws := d } := by
  induction n generalizing s with
  | zero => exact ⟨s.draws, rfl⟩
  | succ n ih =>
    obtain ⟨d, h⟩ := ih { s with draws := s.draws + 1 }
    exact ⟨d, h⟩

theorem InitFrame.trans {s t u : State} (h : InitFrame s t) (k : InitFrame t u) : InitFrame s u := by
  unfold InitFrame at *
  rw [k, h]

theorem initFrame_setShadow (c : Chip) (v : Vector Byte 22) (s : State) : InitFrame s (setShadow c v s) := by
  cases c <;> rfl

theorem initFrame_setXpresent (c : Chip) (b : Bool) (s : State) : InitFrame s (setXpresent c b s) := by
  cases c <;> rfl

theorem initFrame_emit (e : Event) (s : State) : InitFrame s (emit e s) := rfl

theorem initFrame_drawAck (s : State) : InitFrame s (drawAck s).2 := by
  obtain ⟨_, _, h⟩ := drawAck_frame s
  rw [h]; rfl

theorem initFrame_drawExpBytes (n : Nat) (s : State) : InitFrame s (drawExpBytes n s).2 := by
  obtain ⟨_, _, h⟩ := drawExpBytes_frame n s
  rw [h]; rfl

theorem initFrame_freeBytes (n : Nat) (s : State) : InitFrame s (freeBytes n s).2 := by
  obtain ⟨_, h⟩ := freeBytes_frame n s
  rw [h]; rfl

theorem initFrame_expProbe (c : Chip) (s : State) : InitFrame s (expProbe c s).2 :=
  (initFrame_drawAck s).trans (initFrame_emit _ _)

theorem initFrame_expReadBlock (c : Chip) (a : RegAddr) (n : Nat) (s : State) :
    InitFrame s (expReadBlock c a n s).2 := (initFrame_drawExpBytes n s).trans (initFrame_emit _ _)

/-- Everything EXPANDER_INIT may change (41 R170). -/
theorem initFrame_expanderInit (c : Chip) (s : State) : InitFrame s (expanderInit c s) := by
  unfold expanderInit
  dsimp only
  split
  · exact (((initFrame_expProbe c s).trans (initFrame_expReadBlock c 0 22 _)).trans (initFrame_setShadow c _ _)).trans
      ((initFrame_emit _ _).trans (initFrame_setXpresent c true _))
  · exact (((initFrame_expProbe c s).trans (initFrame_freeBytes 22 _)).trans (initFrame_setShadow c _ _)).trans
      (initFrame_setXpresent c false _)

/-! ### The step and the host's actions -/

theorem step_of_configOk {s : State} (h : configOk s.cfg = true) : step s = runHost s := if_pos h

/-- With an action pending, the step is that action, taken off the list. -/
theorem step_cons {s : State} {a : HostInput} {rest : List HostInput} (h : configOk s.cfg = true)
    (ha : s.hostIn = a :: rest) : step s = hostAction a { s with hostIn := rest } := by
  rw [step_of_configOk h, runHost, ha]

theorem hostReg_cmd (c : Config) : hostReg c c.regBase 32 = some .cmd := by simp [hostReg]
theorem hostReg_status (c : Config) : hostReg c (c.regBase + 4) 32 = some .status := by simp [hostReg]
theorem hostReg_result (c : Config) : hostReg c (c.regBase + 8) 32 = some .result := by simp [hostReg]

/-- A CMD write is handled by `on_cmd_write` (40 R150). -/
theorem step_cmd {s : State} {v : Word} {rest : List HostInput} (h : configOk s.cfg = true)
    (hp : CmdPending s v rest) : step s = onCmdWrite v { s with hostIn := rest } := by
  rw [step_cons h hp]
  show hostWrite s.cfg.regBase 32 v { s with hostIn := rest } = _
  unfold hostWrite
  rw [show hostReg ({ s with hostIn := rest } : State).cfg s.cfg.regBase 32 = some .cmd from hostReg_cmd s.cfg]

/-- A step that answers a next state takes an action that answers one, or the block is idle. -/
theorem step_next {s t : State} (h : step s = .next t) :
    configOk s.cfg = true ∧ ((s.hostIn = [] ∧ t = s) ∨
      ∃ a rest, s.hostIn = a :: rest ∧ hostAction a { s with hostIn := rest } = .next t) := by
  unfold step at h
  split at h
  · next hc =>
    refine ⟨hc, ?_⟩
    unfold runHost at h
    split at h
    · next hn => exact .inl ⟨hn, (Host.Outcome.next.inj h).symm⟩
    · next a rest hn => exact .inr ⟨a, rest, hn, h⟩
  · cases h

end Sys2Proof.Machine
end

