-- ==== Sys2Proof/Laws/Memory.lean ====
section
/-! SUPPORT. The laws of the byte memories: every write keeps the canonical form and the size, a read after a write
gives the value written and every other read is unchanged, and canonical memories that read alike are equal. -/

namespace Sys2Proof.Machine

theorem above_iff (a : Nat) (m : List Host.Cell) : Memory.above a m = true ↔ ∀ c, c ∈ m → a < c.1 := by
  simp [Memory.above, List.all_eq_true]

theorem within_iff (n : Nat) (m : List Host.Cell) : Memory.within n m = true ↔ ∀ c, c ∈ m → c.1 < n := by
  simp [Memory.within, List.all_eq_true]

theorem wf_cons (d : Byte) (k : Nat) (v : Byte) (t : List Host.Cell) :
    Memory.wf d ((k, v) :: t) = true ↔ v ≠ d ∧ Memory.above k t = true ∧ Memory.wf d t = true := by
  simp [Memory.wf, and_assoc]

theorem above_mono {a b : Nat} {m : List Host.Cell} (hab : a ≤ b) (h : Memory.above b m = true) :
    Memory.above a m = true := by
  rw [above_iff] at *
  exact fun c hc => lt_of_le_of_lt hab (h c hc)

theorem put_subset {d : Byte} {a : Nat} {v : Byte} {t : List Host.Cell} {c : Host.Cell}
    (h : c ∈ Memory.put d a v t) : c = (a, v) ∨ c ∈ t := by
  unfold Memory.put at h
  split at h
  · exact .inr h
  · simpa using h

theorem write_subset {d : Byte} {m : List Host.Cell} {a : Nat} {v : Byte} {c : Host.Cell}
    (h : c ∈ Memory.write d m a v) : c = (a, v) ∨ c ∈ m := by
  induction m with
  | nil => exact put_subset h
  | cons x t ih =>
    obtain ⟨k, w⟩ := x
    simp only [Memory.write] at h
    split at h
    · exact put_subset h
    · split at h
      · exact (put_subset h).imp_right (List.mem_cons_of_mem _)
      · rcases List.mem_cons.mp h with h | h
        · exact .inr (h ▸ List.mem_cons_self)
        · exact (ih h).imp_right (List.mem_cons_of_mem _)

theorem wf_put {d : Byte} {a : Nat} {t : List Host.Cell} (v : Byte) (ha : Memory.above a t = true)
    (ht : Memory.wf d t = true) : Memory.wf d (Memory.put d a v t) = true := by
  unfold Memory.put
  split
  · exact ht
  · next hv => exact (wf_cons d a v t).mpr ⟨hv, ha, ht⟩

/-- Every write keeps the canonical form. -/
theorem write_wf {d : Byte} {m : List Host.Cell} (a : Nat) (v : Byte) (h : Memory.wf d m = true) :
    Memory.wf d (Memory.write d m a v) = true := by
  induction m with
  | nil => exact wf_put v rfl rfl
  | cons x t ih =>
    obtain ⟨k, w⟩ := x
    obtain ⟨hw, hk, ht⟩ := (wf_cons d k w t).mp h
    simp only [Memory.write]
    split
    · next hlt =>
      refine wf_put v ((above_iff _ _).mpr fun c hc => ?_) h
      rcases List.mem_cons.mp hc with rfl | hc
      · exact hlt
      · exact hlt.trans ((above_iff _ _).mp hk c hc)
    · split
      · next heq => exact wf_put v (heq ▸ hk) ht
      · next hge hne =>
        refine (wf_cons _ _ _ _).mpr ⟨hw, (above_iff _ _).mpr fun c hc => ?_, ih ht⟩
        rcases write_subset hc with rfl | hc
        · exact lt_of_le_of_ne (not_lt.mp hge) (Ne.symm hne)
        · exact (above_iff _ _).mp hk c hc

/-- A write below the size keeps the memory inside the size. -/
theorem write_within {d : Byte} {m : List Host.Cell} {n a : Nat} (v : Byte) (ha : a < n)
    (h : Memory.within n m = true) : Memory.within n (Memory.write d m a v) = true := by
  rw [within_iff] at *
  intro c hc
  rcases write_subset hc with rfl | hc
  · exact ha
  · exact h c hc

/-- An index below every listed one reads the blank byte. -/
theorem read_above {d : Byte} {m : List Host.Cell} {a b : Nat} (hb : b ≤ a) (h : Memory.above a m = true) :
    Memory.read d m b = d := by
  induction m with
  | nil => rfl
  | cons x t ih =>
    obtain ⟨k, w⟩ := x
    have hk := (above_iff _ _).mp h (k, w) List.mem_cons_self
    have ht : Memory.above a t = true :=
      (above_iff _ _).mpr fun c hc => (above_iff _ _).mp h c (List.mem_cons_of_mem _ hc)
    simp only [Memory.read]
    rw [if_neg (by simp at hk; omega)]
    exact ih ht

theorem read_put_self {d : Byte} {a : Nat} {t : List Host.Cell} (v : Byte) (h : Memory.above a t = true) :
    Memory.read d (Memory.put d a v t) a = v := by
  unfold Memory.put
  split
  · next hv => rw [hv]; exact read_above le_rfl h
  · simp [Memory.read]

theorem read_put_other {d : Byte} {a b : Nat} {t : List Host.Cell} (v : Byte) (h : b ≠ a) :
    Memory.read d (Memory.put d a v t) b = Memory.read d t b := by
  unfold Memory.put
  split
  · rfl
  · simp [Memory.read, h]

/-- A read after a write to the same index gives the byte written. -/
theorem read_write_self {d : Byte} {m : List Host.Cell} (a : Nat) (v : Byte) (h : Memory.wf d m = true) :
    Memory.read d (Memory.write d m a v) a = v := by
  induction m with
  | nil => exact read_put_self v rfl
  | cons x t ih =>
    obtain ⟨k, w⟩ := x
    obtain ⟨-, hk, ht⟩ := (wf_cons d k w t).mp h
    simp only [Memory.write]
    split
    · next hlt =>
      refine read_put_self v ((above_iff _ _).mpr fun c hc => ?_)
      rcases List.mem_cons.mp hc with rfl | hc
      · exact hlt
      · exact hlt.trans ((above_iff _ _).mp hk c hc)
    · split
      · next heq => exact read_put_self v (heq ▸ hk)
      · next hne => simpa [Memory.read, hne] using ih ht

/-- A write leaves every other index as it was. -/
theorem read_write_other {d : Byte} {m : List Host.Cell} {a b : Nat} (v : Byte) (h : b ≠ a) :
    Memory.read d (Memory.write d m a v) b = Memory.read d m b := by
  induction m with
  | nil => exact read_put_other v h
  | cons x t ih =>
    obtain ⟨k, w⟩ := x
    simp only [Memory.write]
    split
    · exact read_put_other v h
    · split
      · next heq =>
        subst heq
        rw [read_put_other v h]
        simp [Memory.read, h]
      · simp only [Memory.read]
        split
        · rfl
        · exact ih

theorem read_write {d : Byte} {m : List Host.Cell} (a b : Nat) (v : Byte) (h : Memory.wf d m = true) :
    Memory.read d (Memory.write d m a v) b = if b = a then v else Memory.read d m b := by
  split
  · next hb => rw [hb]; exact read_write_self a v h
  · next hb => exact read_write_other v hb

/-- An index outside the size reads the blank byte. -/
theorem read_outside {d : Byte} {m : List Host.Cell} {n a : Nat} (h : Memory.within n m = true) (ha : n ≤ a) :
    Memory.read d m a = d := by
  induction m with
  | nil => rfl
  | cons x t ih =>
    obtain ⟨k, w⟩ := x
    have hx := (within_iff _ _).mp h
    simp only [Memory.read]
    rw [if_neg (by have := hx (k, w) List.mem_cons_self; simp at this; omega)]
    exact ih ((within_iff _ _).mpr fun c hc => hx c (List.mem_cons_of_mem _ hc))

/-- A canonical memory is determined by what it reads as. -/
theorem wf_ext {d : Byte} {m n : List Host.Cell} (hm : Memory.wf d m = true) (hn : Memory.wf d n = true)
    (h : ∀ a, Memory.read d m a = Memory.read d n a) : m = n := by
  induction m generalizing n with
  | nil =>
    cases n with
    | nil => rfl
    | cons y u =>
      obtain ⟨j, x⟩ := y
      have hx := h j
      simp only [Memory.read, if_true] at hx
      exact absurd hx.symm ((wf_cons _ _ _ _).mp hn).1
  | cons y t ih =>
    obtain ⟨k, v⟩ := y
    obtain ⟨hv, hk, ht⟩ := (wf_cons d k v t).mp hm
    cases n with
    | nil =>
      have hx := h k
      simp only [Memory.read, if_true] at hx
      exact absurd hx hv
    | cons z u =>
      obtain ⟨j, x⟩ := z
      obtain ⟨hx, hj, hu⟩ := (wf_cons d j x u).mp hn
      have hkj : k = j := by
        rcases lt_trichotomy k j with hlt | heq | hlt
        · have h1 := h k
          simp only [Memory.read, if_true, hlt.ne, if_false, read_above hlt.le hj] at h1
          exact absurd h1 hv
        · exact heq
        · have h1 := h j
          simp only [Memory.read, if_true, hlt.ne, if_false, read_above hlt.le hk] at h1
          exact absurd h1.symm hx
      subst hkj
      have hvx : v = x := by simpa [Memory.read] using h k
      subst hvx
      refine congrArg _ (ih ht hu fun a => ?_)
      by_cases ha : a = k
      · rw [ha, read_above le_rfl hk, read_above le_rfl hj]
      · simpa [Memory.read, ha] using h a

end Sys2Proof.Machine
end

