-- ==== Sys2Proof/Laws/Ops.lean ====
section
/-! SUPPORT. What each shared operation does, said once: frames, shadow bytes, pin bits, the poll, repetition. -/

namespace Sys2Proof.Machine

/-! ### Frames compose -/

theorem DriveFrame.refl (s : State) : DriveFrame s s := rfl

theorem DriveFrame.trans {s t u : State} (h : DriveFrame s t) (k : DriveFrame t u) : DriveFrame s u := by
  unfold DriveFrame at *
  rw [k, h]

theorem ScanFrame.refl (s : State) : ScanFrame s s := rfl

theorem ScanFrame.trans {s t u : State} (h : ScanFrame s t) (k : ScanFrame t u) : ScanFrame s u := by
  unfold ScanFrame at *
  rw [k, h]

theorem ScanFrame.drive {s t : State} (h : ScanFrame s t) : DriveFrame s t := by
  unfold ScanFrame DriveFrame at *
  rw [h]

theorem PinFrame.refl (c : Chip) (s : State) : PinFrame c s s := by cases c <;> rfl

theorem PinFrame.trans {c : Chip} {s t u : State} (h : PinFrame c s t) (k : PinFrame c t u) : PinFrame c s u := by
  cases c <;> (simp only [PinFrame] at *; rw [k, h])

theorem PinFrame.scan {s t : State} (h : PinFrame .x0 s t) : ScanFrame s t := by
  simp only [PinFrame, ScanFrame] at *
  rw [h]

theorem PollFrame.refl (s : State) : PollFrame s s := rfl

theorem PollFrame.trans {s t u : State} (h : PollFrame s t) (k : PollFrame t u) : PollFrame s u := by
  unfold PollFrame at *
  rw [k, h]

theorem PollFrame.drive {s t : State} (h : PollFrame s t) : DriveFrame s t := by
  unfold PollFrame DriveFrame at *
  rw [h]

theorem scanFrame_emit (e : Event) (s : State) : ScanFrame s (emit e s) := rfl
theorem scanFrame_fastSet (m : Word) (s : State) : ScanFrame s (fastSet m s) := rfl
theorem scanFrame_fastClear (m : Word) (s : State) : ScanFrame s (fastClear m s) := rfl
theorem scanFrame_delayUs (n : Nat) (s : State) : ScanFrame s (delayUs n s) := rfl

/-! ### Primitives -/

@[simp] theorem fastSet_fastOut (m : Word) (s : State) : (fastSet m s).fastOut = s.fastOut ||| m := rfl
@[simp] theorem fastClear_fastOut (m : Word) (s : State) : (fastClear m s).fastOut = s.fastOut &&& ~~~m := rfl
@[simp] theorem fastSet_trace (m : Word) (s : State) : (fastSet m s).trace = s.trace ++ [.fset m] := rfl
@[simp] theorem fastClear_trace (m : Word) (s : State) : (fastClear m s).trace = s.trace ++ [.fclr m] := rfl
@[simp] theorem fastSet_cfg (m : Word) (s : State) : (fastSet m s).cfg = s.cfg := rfl
@[simp] theorem fastClear_cfg (m : Word) (s : State) : (fastClear m s).cfg = s.cfg := rfl
@[simp] theorem fastSet_shadowOf (m : Word) (s : State) (c : Chip) : shadowOf (fastSet m s) c = shadowOf s c := by
  cases c <;> rfl
@[simp] theorem fastClear_shadowOf (m : Word) (s : State) (c : Chip) :
    shadowOf (fastClear m s) c = shadowOf s c := by cases c <;> rfl
@[simp] theorem emit_shadowOf (e : Event) (s : State) (c : Chip) : shadowOf (emit e s) c = shadowOf s c := by
  cases c <;> rfl

/-! ### Repetition -/

/-- What every round keeps, the repetition keeps. -/
theorem forUpTo_keeps {P : State → Prop} {f : Nat → State → State} (n : Nat)
    (hf : ∀ k s, k < n → P s → P (f k s)) {s : State} (h : P s) : P (forUpTo n f s) := by
  induction n with
  | zero => exact h
  | succ n ih => exact hf n _ n.lt_succ_self (ih fun k s hk => hf k s (hk.trans n.lt_succ_self))

theorem foldl_keeps {α : Type} {P : State → Prop} {f : State → α → State} (l : List α)
    (hf : ∀ s x, x ∈ l → P s → P (f s x)) {s : State} (h : P s) : P (l.foldl f s) := by
  induction l generalizing s with
  | nil => exact h
  | cons x l ih =>
    exact ih (fun s y hy => hf s y (List.mem_cons_of_mem _ hy)) (hf s x List.mem_cons_self h)

/-! ### Shadow bytes -/

theorem shadowOf_setShadow (c c' : Chip) (v : Vector Byte 22) (s : State) :
    shadowOf (setShadow c v s) c' = if c' = c then v else shadowOf s c' := by
  cases c <;> cases c' <;> rfl

theorem shadowGet_shadowPut (c c' : Chip) (a a' : RegAddr) (v : Byte) (s : State) :
    shadowGet (shadowPut c a v s) c' a' = if c' = c ∧ a' = a then v else shadowGet s c' a' := by
  unfold shadowGet shadowPut
  rw [shadowOf_setShadow]
  by_cases hc : c' = c
  · subst hc
    by_cases ha : a' = a
    · subst ha; simp [Vector.get]
    · have hne : a.val ≠ a'.val := fun h => ha (Fin.ext h.symm)
      simp only [true_and, ha, if_true, if_false]
      show ((shadowOf s c').set a.val v a.isLt)[a'.val] = (shadowOf s c')[a'.val]
      rw [Vector.getElem_set, if_neg hne]
  · simp [hc]

theorem pinFrame_shadowPut (c : Chip) (a : RegAddr) (v : Byte) (s : State) : PinFrame c s (shadowPut c a v s) := by
  cases c <;> rfl

theorem pinFrame_emit (c : Chip) (e : Event) (s : State) : PinFrame c s (emit e s) := by cases c <;> rfl

/-- One shadow update: the byte takes the value, no other byte changes (41 R175). -/
theorem shadowGet_shadowSet1 (c c' : Chip) (a a' : RegAddr) (v : Byte) (s : State) :
    shadowGet (shadowSet1 c a v s) c' a' = if c' = c ∧ a' = a then v else shadowGet s c' a' := by
  unfold shadowSet1
  split
  · next h =>
    split
    · next hca => rw [hca.1, hca.2, h]
    · rfl
  · show shadowGet (emit _ _) c' a' = _
    unfold shadowGet
    rw [emit_shadowOf]
    exact shadowGet_shadowPut c c' a a' v s

/-- It is pushed exactly when it changes (41 R175). -/
theorem shadowSet1_trace (c : Chip) (a : RegAddr) (v : Byte) (s : State) :
    (shadowSet1 c a v s).trace = s.trace ++ if shadowGet s c a = v then [] else [.xw c a v] := by
  unfold shadowSet1
  split
  · simp
  · cases c <;> rfl

theorem pinFrame_shadowSet1 (c : Chip) (a : RegAddr) (v : Byte) (s : State) : PinFrame c s (shadowSet1 c a v s) := by
  unfold shadowSet1
  split
  · exact PinFrame.refl c s
  · exact (pinFrame_shadowPut c a v s).trans (pinFrame_emit c _ _)

/-! ### Pins -/

theorem pinMask_getLsbD (p q : Pin) : (pinMask p).getLsbD (q.val % 8) = decide (p.val % 8 = q.val % 8) := by
  revert p q; decide

theorem pinMask_getElem (p q : Pin) (h : q.val % 8 < 8) :
    (pinMask p)[q.val % 8]'h = decide (p.val % 8 = q.val % 8) := by
  rw [← BitVec.getLsbD_eq_getElem]
  exact pinMask_getLsbD p q

theorem olatOf_inj_port {p q : Pin} (h : olatOf p = olatOf q) : p.val / 8 = q.val / 8 := by
  simp [olatOf] at h; omega

theorem pin_eq_of {p q : Pin} (h : p.val / 8 = q.val / 8) (k : p.val % 8 = q.val % 8) : p = q := by
  apply Fin.ext; omega

theorem pinFrame_pinOutSet (c : Chip) (p : Pin) (l : Bool) (s : State) : PinFrame c s (pinOutSet c p l s) :=
  pinFrame_shadowSet1 _ _ _ _

theorem shadowGet_pinOutSet (c c' : Chip) (p : Pin) (l : Bool) (a : RegAddr) (s : State) :
    shadowGet (pinOutSet c p l s) c' a =
      if c' = c ∧ a = olatOf p then
        (if l then shadowGet s c (olatOf p) ||| pinMask p else shadowGet s c (olatOf p) &&& ~~~(pinMask p))
      else shadowGet s c' a :=
  shadowGet_shadowSet1 _ _ _ _ _ _

/-- PIN_OUT_SET sets the latch of its pin and of no other (41 R176). -/
theorem pinLatch_pinOutSet (c c' : Chip) (p q : Pin) (l : Bool) (s : State) :
    pinLatch (pinOutSet c p l s) c' q = if c' = c ∧ q = p then l else pinLatch s c' q := by
  unfold pinLatch pinBitIn
  rw [shadowGet_pinOutSet]
  have hq : q.val % 8 < 8 := Nat.mod_lt _ (by decide)
  by_cases hc : c' = c
  · subst hc
    by_cases ho : olatOf q = olatOf p
    · by_cases hb : p.val % 8 = q.val % 8
      · have hpq : q = p := pin_eq_of (olatOf_inj_port ho) hb.symm
        subst hpq
        cases l <;> simp [pinMask_getElem, hq]
      · have hpq : q ≠ p := fun h => hb (by rw [h])
        cases l <;> simp [ho, pinMask_getElem, hb, hq, hpq]
    · have hpq : q ≠ p := fun h => ho (by rw [h])
      simp [ho, hpq]
  · simp [hc]

theorem pinIsInput_pinOutSet (c c' : Chip) (p q : Pin) (l : Bool) (s : State) :
    pinIsInput (pinOutSet c p l s) c' q = pinIsInput s c' q := by
  unfold pinIsInput pinBitIn
  rw [shadowGet_pinOutSet, if_neg]
  rintro ⟨-, h⟩
  simp [iodirOf, olatOf] at h
  omega

theorem pinFrame_pinModeSet (c : Chip) (p : Pin) (mode : PinMode) (s : State) :
    PinFrame c s (pinModeSet c p mode s) :=
  (pinFrame_shadowSet1 c _ _ s).trans (pinFrame_shadowSet1 c _ _ _)

theorem shadowGet_pinModeSet (c c' : Chip) (p : Pin) (mode : PinMode) (a : RegAddr) (s : State) :
    shadowGet (pinModeSet c p mode s) c' a =
      if c' = c ∧ a = gppuOf p then
        (pinModeBytes mode (pinMask p) (shadowGet s c (iodirOf p)) (shadowGet s c (gppuOf p))).2
      else if c' = c ∧ a = iodirOf p then
        (pinModeBytes mode (pinMask p) (shadowGet s c (iodirOf p)) (shadowGet s c (gppuOf p))).1
      else shadowGet s c' a := by
  unfold pinModeSet shadowSet
  simp only [List.foldl_cons, List.foldl_nil]
  rw [shadowGet_shadowSet1, shadowGet_shadowSet1]

theorem iodirOf_ne_gppuOf (p q : Pin) : iodirOf p ≠ gppuOf q := by
  intro h; simp [iodirOf, gppuOf] at h; omega

theorem iodirOf_inj_port {p q : Pin} (h : iodirOf p = iodirOf q) : p.val / 8 = q.val / 8 := by
  simp [iodirOf] at h; omega

/-- PIN_MODE_SET sets the direction of its pin and of no other (41 R178). -/
theorem pinIsInput_pinModeSet (c c' : Chip) (p q : Pin) (mode : PinMode) (s : State) :
    pinIsInput (pinModeSet c p mode s) c' q =
      if c' = c ∧ q = p then decide (mode ≠ .output) else pinIsInput s c' q := by
  unfold pinIsInput pinBitIn
  rw [shadowGet_pinModeSet]
  have hq : q.val % 8 < 8 := Nat.mod_lt _ (by decide)
  by_cases hc : c' = c
  · subst hc
    by_cases ho : iodirOf q = iodirOf p
    · by_cases hb : p.val % 8 = q.val % 8
      · have hpq : q = p := pin_eq_of (iodirOf_inj_port ho) hb.symm
        subst hpq
        cases mode <;> simp [iodirOf_ne_gppuOf, pinModeBytes, pinMask_getElem, hq]
      · have hpq : q ≠ p := fun h => hb (by rw [h])
        cases mode <;> simp [iodirOf_ne_gppuOf, ho, pinModeBytes, pinMask_getElem, hb, hq, hpq]
    · have hpq : q ≠ p := fun h => ho (by rw [h])
      simp [iodirOf_ne_gppuOf, ho, hpq]
  · simp [hc]

theorem pinLatch_pinModeSet (c c' : Chip) (p q : Pin) (mode : PinMode) (s : State) :
    pinLatch (pinModeSet c p mode s) c' q = pinLatch s c' q := by
  unfold pinLatch pinBitIn
  rw [shadowGet_pinModeSet, if_neg, if_neg]
  · rintro ⟨-, h⟩; simp [iodirOf, olatOf] at h; omega
  · rintro ⟨-, h⟩; simp [gppuOf, olatOf] at h; omega

/-! ### Core signals -/

theorem scanFrame_coreSet (sig : CoreSig) (l : Bool) (s : State) : ScanFrame s (coreSet sig l s) :=
  (pinFrame_pinOutSet .x0 _ l s).scan

theorem scanFrame_coreOut (sig : CoreSig) (s : State) : ScanFrame s (coreOut sig s) :=
  (pinFrame_pinModeSet .x0 _ _ s).scan

theorem ScanFrame.cfg_eq {s t : State} (h : ScanFrame s t) : t.cfg = s.cfg := by rw [h]

@[simp] theorem coreSet_cfg (sig : CoreSig) (l : Bool) (s : State) : (coreSet sig l s).cfg = s.cfg :=
  (scanFrame_coreSet sig l s).cfg_eq

@[simp] theorem coreOut_cfg (sig : CoreSig) (s : State) : (coreOut sig s).cfg = s.cfg :=
  (scanFrame_coreOut sig s).cfg_eq

@[simp] theorem coreSet_fastOut (sig : CoreSig) (l : Bool) (s : State) : (coreSet sig l s).fastOut = s.fastOut := by
  have h := pinFrame_pinOutSet .x0 (corePin s.cfg sig) l s
  simp only [PinFrame] at h
  unfold coreSet
  rw [h]

@[simp] theorem coreOut_fastOut (sig : CoreSig) (s : State) : (coreOut sig s).fastOut = s.fastOut := by
  have h := pinFrame_pinModeSet .x0 (corePin s.cfg sig) .output s
  simp only [PinFrame] at h
  unfold coreOut
  rw [h]

/-! ### The power-good poll (46 R332) -/

theorem drawPmic_fst (s : State) : (drawPmic s).1 = pmicAnswer s 0 := by
  unfold drawPmic pmicAnswer
  cases s.envPmic <;> simp

theorem pollFrame_drawPmic (s : State) : PollFrame s (drawPmic s).2 := by
  unfold drawPmic PollFrame
  cases h : s.envPmic <;> simp

theorem pmicAnswer_drawPmic (s : State) (n : Nat) : pmicAnswer (drawPmic s).2 n = pmicAnswer s (n + 1) := by
  unfold drawPmic pmicAnswer
  cases s.envPmic with
  | nil => simp [Nat.add_comm, Nat.add_left_comm]
  | cons b rest => simp

theorem pmicAnswer_emit (e : Event) (s : State) (n : Nat) : pmicAnswer (emit e s) n = pmicAnswer s n := rfl

theorem pmicAnswer_pmicRead (a : Byte) (s : State) (n : Nat) :
    pmicAnswer (pmicRead a s).2 n = pmicAnswer s (n + 1) := pmicAnswer_drawPmic s n

/-- The poll succeeds exactly when one of the answers it reads satisfies pred. -/
theorem pgPoll_fst (pred : Byte → Bool) (n : Nat) (s : State) :
    (pgPoll pred n s).1 = true ↔ ∃ k, k < n ∧ pred (pmicAnswer s k) = true := by
  induction n generalizing s with
  | zero => simp [pgPoll]
  | succ n ih =>
    have h0 : (pmicRead s.cfg.pgReg (delayMs pgPollMs s)).1 = pmicAnswer s 0 := drawPmic_fst _
    have hs : ∀ k, pmicAnswer (pmicRead s.cfg.pgReg (delayMs pgPollMs s)).2 k = pmicAnswer s (k + 1) :=
      fun k => pmicAnswer_pmicRead _ _ k
    simp only [pgPoll]
    rw [h0]
    split
    · next h => exact ⟨fun _ => ⟨0, n.succ_pos, h⟩, fun _ => rfl⟩
    · next h =>
      rw [ih]
      constructor
      · rintro ⟨k, hk, hp⟩
        exact ⟨k + 1, by omega, by rw [← hs]; exact hp⟩
      · rintro ⟨k, hk, hp⟩
        cases k with
        | zero => exact absurd hp h
        | succ k => exact ⟨k, by omega, by rw [hs]; exact hp⟩

/-- The poll changes only the trace and the answers to come, and adds at most two events a round. -/
theorem pgPoll_snd (pred : Byte → Bool) (n : Nat) (s : State) :
    PollFrame s (pgPoll pred n s).2 ∧ (pgPoll pred n s).2.trace.length ≤ s.trace.length + 2 * n := by
  induction n generalizing s with
  | zero => exact ⟨rfl, by simp [pgPoll]⟩
  | succ n ih =>
    have hf : PollFrame s (pmicRead s.cfg.pgReg (delayMs pgPollMs s)).2 := by
      have h1 : PollFrame s (delayMs pgPollMs s) := rfl
      exact h1.trans ((pollFrame_drawPmic _).trans rfl)
    have hl : (pmicRead s.cfg.pgReg (delayMs pgPollMs s)).2.trace.length = s.trace.length + 2 := by
      have h1 : (drawPmic (delayMs pgPollMs s)).2.trace = s.trace ++ [.dms pgPollMs] := by
        unfold drawPmic
        split <;> rfl
      simp [pmicRead, emit, h1]
    simp only [pgPoll]
    split
    · exact ⟨hf, by dsimp only; omega⟩
    · have h := ih (pmicRead s.cfg.pgReg (delayMs pgPollMs s)).2
      exact ⟨hf.trans h.1, by omega⟩

/-! ### Passes -/

theorem scanFrame_vscanStartSeq (s : State) : ScanFrame s (vscanStartSeq s) := by
  exact (scanFrame_fastSet _ s).trans <| (scanFrame_delayUs _ _).trans <| (scanFrame_coreSet _ _ _).trans <|
    (scanFrame_delayUs _ _).trans <| (scanFrame_fastClear _ _).trans <| (scanFrame_delayUs _ _).trans <|
    (scanFrame_fastSet _ _).trans <| (scanFrame_delayUs _ _).trans <| (scanFrame_coreSet _ _ _).trans <|
    (scanFrame_delayUs _ _).trans <| (scanFrame_fastClear _ _).trans <| (scanFrame_delayUs _ _).trans <|
    (scanFrame_fastSet _ _).trans <| (scanFrame_delayUs _ _).trans <| (scanFrame_fastClear _ _).trans <|
    (scanFrame_delayUs _ _).trans <| (scanFrame_fastSet _ _).trans <| (scanFrame_delayUs _ _).trans <|
    (scanFrame_fastClear _ _).trans <| (scanFrame_delayUs _ _).trans (scanFrame_fastSet _ _)

theorem scanFrame_columnWrite (d : Byte) (s : State) : ScanFrame s (columnWrite d s) :=
  (scanFrame_fastSet _ s).trans (scanFrame_fastClear _ _)

theorem scanFrame_hscanStartSeq (d : Byte) (s : State) : ScanFrame s (hscanStartSeq d s) :=
  (scanFrame_fastClear _ s).trans <| (scanFrame_fastSet _ _).trans <| (scanFrame_fastClear _ _).trans <|
    (scanFrame_fastSet _ _).trans (scanFrame_fastSet _ _)

theorem scanFrame_vscanEndSeq (s : State) : ScanFrame s (vscanEndSeq s) :=
  (scanFrame_fastClear _ s).trans <| (scanFrame_fastSet _ _).trans (scanFrame_fastClear _ _)

theorem scanFrame_scanRow (b : WordSource) (y : Nat) (s : State) : ScanFrame s (scanRow b y s) := by
  unfold scanRow
  exact (forUpTo_keeps (P := ScanFrame s) _ (fun k t _ h => h.trans (scanFrame_columnWrite _ t))
    (scanFrame_hscanStartSeq _ s)).trans (scanFrame_vscanEndSeq _)

theorem scanFrame_pass (b : WordSource) (s : State) : ScanFrame s (pass b s) := by
  unfold pass
  exact (forUpTo_keeps (P := ScanFrame s) _ (fun y t _ h => h.trans (scanFrame_scanRow b y t))
    (scanFrame_vscanStartSeq s)).trans (scanFrame_delayUs _ _)

theorem scanFrame_repeatPass (n : Nat) (b : State → WordSource) (s : State) : ScanFrame s (repeatPass n b s) := by
  unfold repeatPass
  exact forUpTo_keeps (P := ScanFrame s) _ (fun _ t _ h => h.trans (scanFrame_pass _ t)) (ScanFrame.refl s)

theorem scanFrame_cleanList (l : List (BitVec 2 × Nat)) (s : State) : ScanFrame s (cleanList l s) := by
  unfold cleanList
  exact foldl_keeps (P := ScanFrame s) _ (fun t e _ h => h.trans (scanFrame_repeatPass _ _ t)) (ScanFrame.refl s)

theorem scanFrame_grayPasses (s : State) : ScanFrame s (grayPasses s) := by
  unfold grayPasses
  exact foldl_keeps (P := ScanFrame s) _ (fun t p _ h => h.trans (scanFrame_pass _ t)) (ScanFrame.refl s)

end Sys2Proof.Machine
end

