-- ==== Sys2Proof/Laws/PerInstr.lean ====
section
/-! SUPPORT. Per instruction: the encoder's word belongs to the instruction's row of the opcode map (30 R119), so it
has the row's opcode and 0 in every bit the row reserves. -/

namespace Sys2Proof.Laws.RowMatch

/-- "a word w is the command iff (w & mask) = match" (30 R119), for the word the encoder gives. -/
def Statement (i : Instr) : Prop := encode i &&& (rowOf i).mask = (rowOf i).pattern

theorem place_and_disjoint {n : Nat} (lo : Nat) (b : BitVec n) (m : Word)
    (h : ∀ k, k < 32 → lo ≤ k → k < lo + n → m.getLsbD k = false) : place lo b &&& m = 0 := by
  apply BitVec.eq_of_getLsbD_eq
  intro k hk
  rw [show BitVec.getLsbD (0 : Word) k = false from BitVec.getLsbD_zero, BitVec.getLsbD_and,
    Bool.and_eq_false_imp]
  simp only [place, BitVec.getLsbD_shiftLeft, BitVec.truncate_eq_setWidth, BitVec.getLsbD_setWidth]
  intro hp
  by_cases hlo : lo ≤ k
  · by_cases hn : k < lo + n
    · exact h k hk hlo hn
    · rw [BitVec.getLsbD_of_ge b (k - lo) (by omega)] at hp
      simp at hp
  · simp [show k < lo by omega] at hp

theorem or_and (a b m : Word) : (a ||| b) &&& m = (a &&& m) ||| (b &&& m) := by
  ext i
  simp [Bool.and_or_distrib_right]

theorem nop : Statement (.nop) := by unfold Statement; decide

theorem setpix (x y : Int) (v : BitVec 3) : Statement (.setpix x y v) := by
  simp only [Statement, encode, rowOf, or_and]
  rw [place_and_disjoint 15 _ _ (by decide)]
  rw [place_and_disjoint 3 _ _ (by decide)]
  rw [place_and_disjoint 0 _ _ (by decide)]
  decide

theorem clear : Statement (.clear) := by unfold Statement; decide

theorem setmode (m : Mode) : Statement (.setmode m) := by
  simp only [Statement, encode, rowOf, or_and]
  rw [place_and_disjoint 0 _ _ (by decide)]
  decide

theorem setrot (r : BitVec 2) : Statement (.setrot r) := by
  simp only [Statement, encode, rowOf, or_and]
  rw [place_and_disjoint 0 _ _ (by decide)]
  decide

theorem display : Statement (.display) := by unfold Statement; decide

theorem partialRefresh : Statement (.partialRefresh) := by unfold Statement; decide

theorem pwron : Statement (.pwron) := by unfold Statement; decide

theorem pwroff : Statement (.pwroff) := by unfold Statement; decide

theorem vstart : Statement (.vstart) := by unfold Statement; decide

theorem hstart (d : Byte) : Statement (.hstart d) := by
  simp only [Statement, encode, rowOf, or_and]
  rw [place_and_disjoint 0 _ _ (by decide)]
  decide

theorem hdata (d : Byte) : Statement (.hdata d) := by
  simp only [Statement, encode, rowOf, or_and]
  rw [place_and_disjoint 0 _ _ (by decide)]
  decide

theorem vend : Statement (.vend) := by unfold Statement; decide

theorem pinmode (c : Chip) (p : Pin) (mode : PinMode) : Statement (.pinmode c p mode) := by
  simp only [Statement, encode, rowOf, or_and]
  rw [place_and_disjoint 26 _ _ (by decide)]
  rw [place_and_disjoint 22 _ _ (by decide)]
  rw [place_and_disjoint 0 _ _ (by decide)]
  decide

theorem pinwrite (c : Chip) (p : Pin) (level : Bool) : Statement (.pinwrite c p level) := by
  simp only [Statement, encode, rowOf, or_and]
  rw [place_and_disjoint 26 _ _ (by decide)]
  rw [place_and_disjoint 22 _ _ (by decide)]
  rw [place_and_disjoint 0 _ _ (by decide)]
  decide

theorem pinread (c : Chip) (p : Pin) : Statement (.pinread c p) := by
  simp only [Statement, encode, rowOf, or_and]
  rw [place_and_disjoint 26 _ _ (by decide)]
  rw [place_and_disjoint 22 _ _ (by decide)]
  decide

theorem reserved (low : BitVec 31) : Statement (.reserved low) := by
  simp only [Statement, encode, rowOf, or_and]
  rw [place_and_disjoint 0 _ _ (by decide)]
  decide

end Sys2Proof.Laws.RowMatch
end

