-- ==== Sys2Proof/Laws/Power.lean ====
section
/-! SUPPORT. Pin levels and fast-port levels through the primitives, and what the power macros do (46_power). -/

namespace Sys2Proof.Machine

/-! ### Primitives that leave the shadows alone -/

@[simp] theorem shadowGet_emit (e : Event) (s : State) (c : Chip) (a : RegAddr) :
    shadowGet (emit e s) c a = shadowGet s c a := by cases c <;> rfl
@[simp] theorem shadowGet_fastSet (m : Word) (s : State) (c : Chip) (a : RegAddr) :
    shadowGet (fastSet m s) c a = shadowGet s c a := by cases c <;> rfl
@[simp] theorem shadowGet_fastClear (m : Word) (s : State) (c : Chip) (a : RegAddr) :
    shadowGet (fastClear m s) c a = shadowGet s c a := by cases c <;> rfl
@[simp] theorem shadowGet_fastDirOut (m : Word) (s : State) (c : Chip) (a : RegAddr) :
    shadowGet (fastDirOut m s) c a = shadowGet s c a := by cases c <;> rfl
@[simp] theorem shadowGet_delayUs (n : Nat) (s : State) (c : Chip) (a : RegAddr) :
    shadowGet (delayUs n s) c a = shadowGet s c a := by cases c <;> rfl
@[simp] theorem shadowGet_delayMs (n : Nat) (s : State) (c : Chip) (a : RegAddr) :
    shadowGet (delayMs n s) c a = shadowGet s c a := by cases c <;> rfl
@[simp] theorem shadowGet_pmicWrite (r v : Byte) (s : State) (c : Chip) (a : RegAddr) :
    shadowGet (pmicWrite r v s) c a = shadowGet s c a := by cases c <;> rfl
@[simp] theorem shadowGet_setPwr (p : Pwr) (s : State) (c : Chip) (a : RegAddr) :
    shadowGet (setPwr p s) c a = shadowGet s c a := by cases c <;> rfl
@[simp] theorem shadowGet_recordError (e : ErrCode) (s : State) (c : Chip) (a : RegAddr) :
    shadowGet (recordError e s) c a = shadowGet s c a := by cases c <;> cases e <;> rfl

/-- Two states with the same shadows show the same pins. -/
theorem pinLatch_eq_of {s t : State} (h : ∀ c a, shadowGet t c a = shadowGet s c a) (c : Chip) (p : Pin) :
    pinLatch t c p = pinLatch s c p := by simp [pinLatch, pinBitIn, h]

theorem pinIsInput_eq_of {s t : State} (h : ∀ c a, shadowGet t c a = shadowGet s c a) (c : Chip) (p : Pin) :
    pinIsInput t c p = pinIsInput s c p := by simp [pinIsInput, pinBitIn, h]

section Latch

variable (s : State) (c : Chip) (q : Pin)

@[simp] theorem pinLatch_emit (e : Event) : pinLatch (emit e s) c q = pinLatch s c q := pinLatch_eq_of (by simp) c q
@[simp] theorem pinLatch_fastSet (m : Word) : pinLatch (fastSet m s) c q = pinLatch s c q :=
  pinLatch_eq_of (by simp) c q
@[simp] theorem pinLatch_fastClear (m : Word) : pinLatch (fastClear m s) c q = pinLatch s c q :=
  pinLatch_eq_of (by simp) c q
@[simp] theorem pinLatch_fastDirOut (m : Word) : pinLatch (fastDirOut m s) c q = pinLatch s c q :=
  pinLatch_eq_of (by simp) c q
@[simp] theorem pinLatch_delayUs (n : Nat) : pinLatch (delayUs n s) c q = pinLatch s c q :=
  pinLatch_eq_of (by simp) c q
@[simp] theorem pinLatch_delayMs (n : Nat) : pinLatch (delayMs n s) c q = pinLatch s c q :=
  pinLatch_eq_of (by simp) c q
@[simp] theorem pinLatch_pmicWrite (a v : Byte) : pinLatch (pmicWrite a v s) c q = pinLatch s c q :=
  pinLatch_eq_of (by simp) c q
@[simp] theorem pinLatch_setPwr (p : Pwr) : pinLatch (setPwr p s) c q = pinLatch s c q :=
  pinLatch_eq_of (by simp) c q
@[simp] theorem pinLatch_recordError (e : ErrCode) : pinLatch (recordError e s) c q = pinLatch s c q :=
  pinLatch_eq_of (by simp) c q

@[simp] theorem pinIsInput_emit (e : Event) : pinIsInput (emit e s) c q = pinIsInput s c q :=
  pinIsInput_eq_of (by simp) c q
@[simp] theorem pinIsInput_fastSet (m : Word) : pinIsInput (fastSet m s) c q = pinIsInput s c q :=
  pinIsInput_eq_of (by simp) c q
@[simp] theorem pinIsInput_fastClear (m : Word) : pinIsInput (fastClear m s) c q = pinIsInput s c q :=
  pinIsInput_eq_of (by simp) c q
@[simp] theorem pinIsInput_fastDirOut (m : Word) : pinIsInput (fastDirOut m s) c q = pinIsInput s c q :=
  pinIsInput_eq_of (by simp) c q
@[simp] theorem pinIsInput_delayUs (n : Nat) : pinIsInput (delayUs n s) c q = pinIsInput s c q :=
  pinIsInput_eq_of (by simp) c q
@[simp] theorem pinIsInput_delayMs (n : Nat) : pinIsInput (delayMs n s) c q = pinIsInput s c q :=
  pinIsInput_eq_of (by simp) c q
@[simp] theorem pinIsInput_pmicWrite (a v : Byte) : pinIsInput (pmicWrite a v s) c q = pinIsInput s c q :=
  pinIsInput_eq_of (by simp) c q
@[simp] theorem pinIsInput_setPwr (p : Pwr) : pinIsInput (setPwr p s) c q = pinIsInput s c q :=
  pinIsInput_eq_of (by simp) c q
@[simp] theorem pinIsInput_recordError (e : ErrCode) : pinIsInput (recordError e s) c q = pinIsInput s c q :=
  pinIsInput_eq_of (by simp) c q

/-- `CORE_SET` sets one latch and nothing else a pin shows (41 R176). -/
@[simp] theorem pinLatch_coreSet (sig : CoreSig) (l : Bool) :
    pinLatch (coreSet sig l s) c q = if c = .x0 ∧ q = corePin s.cfg sig then l else pinLatch s c q :=
  pinLatch_pinOutSet .x0 c _ q l s

@[simp] theorem pinIsInput_coreSet (sig : CoreSig) (l : Bool) :
    pinIsInput (coreSet sig l s) c q = pinIsInput s c q := pinIsInput_pinOutSet .x0 c _ q l s

/-- `CORE_OUT` makes one pin an output and sets no latch (41 R178). -/
@[simp] theorem pinIsInput_coreOut (sig : CoreSig) :
    pinIsInput (coreOut sig s) c q = if c = .x0 ∧ q = corePin s.cfg sig then false else pinIsInput s c q := by
  simpa [coreOut] using pinIsInput_pinModeSet .x0 c (corePin s.cfg sig) q .output s

@[simp] theorem pinLatch_coreOut (sig : CoreSig) : pinLatch (coreOut sig s) c q = pinLatch s c q :=
  pinLatch_pinModeSet .x0 c _ q .output s

end Latch

/-! ### Fields through the primitives -/

section Fields

variable (s : State)

@[simp] theorem fastDirOut_cfg (m : Word) : (fastDirOut m s).cfg = s.cfg := rfl
@[simp] theorem delayUs_cfg (n : Nat) : (delayUs n s).cfg = s.cfg := rfl
@[simp] theorem delayMs_cfg (n : Nat) : (delayMs n s).cfg = s.cfg := rfl
@[simp] theorem pmicWrite_cfg (a v : Byte) : (pmicWrite a v s).cfg = s.cfg := rfl
@[simp] theorem fastDirOut_fastOut (m : Word) : (fastDirOut m s).fastOut = s.fastOut := rfl
@[simp] theorem delayUs_fastOut (n : Nat) : (delayUs n s).fastOut = s.fastOut := rfl
@[simp] theorem delayMs_fastOut (n : Nat) : (delayMs n s).fastOut = s.fastOut := rfl
@[simp] theorem pmicWrite_fastOut (a v : Byte) : (pmicWrite a v s).fastOut = s.fastOut := rfl
@[simp] theorem fastDirOut_fastDir (m : Word) : (fastDirOut m s).fastDir = s.fastDir ||| m := rfl
@[simp] theorem fastSet_fastDir (m : Word) : (fastSet m s).fastDir = s.fastDir := rfl
@[simp] theorem fastClear_fastDir (m : Word) : (fastClear m s).fastDir = s.fastDir := rfl
@[simp] theorem delayUs_fastDir (n : Nat) : (delayUs n s).fastDir = s.fastDir := rfl
@[simp] theorem delayMs_fastDir (n : Nat) : (delayMs n s).fastDir = s.fastDir := rfl
@[simp] theorem pmicWrite_fastDir (a v : Byte) : (pmicWrite a v s).fastDir = s.fastDir := rfl

theorem ScanFrame.fastDir_eq {s t : State} (h : ScanFrame s t) : t.fastDir = s.fastDir := by rw [h]
theorem ScanFrame.pwr_eq {s t : State} (h : ScanFrame s t) : t.pwr = s.pwr := by rw [h]

@[simp] theorem coreSet_fastDir (sig : CoreSig) (l : Bool) : (coreSet sig l s).fastDir = s.fastDir :=
  (scanFrame_coreSet sig l s).fastDir_eq
@[simp] theorem coreOut_fastDir (sig : CoreSig) : (coreOut sig s).fastDir = s.fastDir :=
  (scanFrame_coreOut sig s).fastDir_eq
@[simp] theorem coreSet_pwr (sig : CoreSig) (l : Bool) : (coreSet sig l s).pwr = s.pwr :=
  (scanFrame_coreSet sig l s).pwr_eq
@[simp] theorem coreOut_pwr (sig : CoreSig) : (coreOut sig s).pwr = s.pwr := (scanFrame_coreOut sig s).pwr_eq
@[simp] theorem fastDirOut_pwr (m : Word) : (fastDirOut m s).pwr = s.pwr := rfl
@[simp] theorem fastSet_pwr (m : Word) : (fastSet m s).pwr = s.pwr := rfl
@[simp] theorem fastClear_pwr (m : Word) : (fastClear m s).pwr = s.pwr := rfl
@[simp] theorem delayMs_pwr (n : Nat) : (delayMs n s).pwr = s.pwr := rfl
@[simp] theorem pmicWrite_pwr (a v : Byte) : (pmicWrite a v s).pwr = s.pwr := rfl
theorem ScanFrame.pwrFail_eq {s t : State} (h : ScanFrame s t) : t.pwrFail = s.pwrFail := by rw [h]
theorem ScanFrame.lastErr_eq {s t : State} (h : ScanFrame s t) : t.lastErr = s.lastErr := by rw [h]
@[simp] theorem coreSet_pwrFail (sig : CoreSig) (l : Bool) : (coreSet sig l s).pwrFail = s.pwrFail :=
  (scanFrame_coreSet sig l s).pwrFail_eq
@[simp] theorem coreSet_lastErr (sig : CoreSig) (l : Bool) : (coreSet sig l s).lastErr = s.lastErr :=
  (scanFrame_coreSet sig l s).lastErr_eq
@[simp] theorem fastClear_pwrFail (m : Word) : (fastClear m s).pwrFail = s.pwrFail := rfl
@[simp] theorem fastClear_lastErr (m : Word) : (fastClear m s).lastErr = s.lastErr := rfl
@[simp] theorem delayMs_pwrFail (n : Nat) : (delayMs n s).pwrFail = s.pwrFail := rfl
@[simp] theorem delayMs_lastErr (n : Nat) : (delayMs n s).lastErr = s.lastErr := rfl

end Fields

/-! ### Core pins -/

/-- The six core pins of a valid configuration, by signal: distinct signals, distinct pins (00 R10). -/
theorem corePin_injective {c : Config} (h : corePinsOk c = true) {a b : CoreSig} (hab : corePin c a = corePin c b) :
    a = b := by
  simp only [corePinsOk, corePins, decide_eq_true_eq, List.nodup_cons, List.mem_cons, List.not_mem_nil,
    or_false, not_or, not_false_eq_true, List.nodup_nil, and_true] at h
  cases a <;> cases b <;> first
    | rfl
    | exact absurd hab (by simp only [corePin]; tauto)

theorem mem_corePins {c : Config} {p : Pin} : p ∈ corePins c ↔ ∃ sig, p = corePin c sig := by
  constructor
  · intro h
    simp only [corePins, List.mem_cons, List.not_mem_nil, or_false] at h
    rcases h with h | h | h | h | h | h
    · exact ⟨.oe, h⟩
    · exact ⟨.gmod, h⟩
    · exact ⟨.spv, h⟩
    · exact ⟨.wakeup, h⟩
    · exact ⟨.pwrup, h⟩
    · exact ⟨.vcom, h⟩
  · rintro ⟨sig, rfl⟩
    cases sig <;> simp [corePins, corePin]

theorem corePin_eq_iff {c : Config} (h : corePinsOk c = true) (a b : CoreSig) :
    corePin c a = corePin c b ↔ a = b := ⟨corePin_injective h, fun hab => by rw [hab]⟩

theorem configOk_corePins {c : Config} (h : configOk c = true) : corePinsOk c = true := by
  simp only [configOk, Bool.and_eq_true] at h
  exact h.2

/-! ### The macros of the power sequencer -/

theorem driveFrame_fastDirOut (m : Word) (s : State) : DriveFrame s (fastDirOut m s) := rfl
theorem driveFrame_setPwr (p : Pwr) (s : State) : DriveFrame s (setPwr p s) := rfl
theorem driveFrame_pgTimeout (s : State) : DriveFrame s (recordError .pgTimeout s) := rfl

/-- What POWER_ON_SEQ does before its poll (46 R331). -/
theorem powerOnSetup_spec (s : State) (h : corePinsOk s.cfg = true) :
    DriveFrame s (powerOnSetup s) ∧ (powerOnSetup s).pwr = .enabling ∧
    (powerOnSetup s).fastDir = s.fastDir ||| panelMask s.cfg ∧
    (powerOnSetup s).fastOut =
      (s.fastOut &&& ~~~(dataMask s.cfg ||| clMask s.cfg ||| leMask s.cfg ||| ckvMask s.cfg)) ||| sphMask s.cfg ∧
    (∀ sig, pinIsInput (powerOnSetup s) .x0 (corePin s.cfg sig) = false) ∧
    (∀ sig, pinLatch (powerOnSetup s) .x0 (corePin s.cfg sig) = decide (sig ≠ .oe)) := by
  refine ⟨?_, by simp [powerOnSetup], by simp [powerOnSetup], by simp [powerOnSetup], ?_, ?_⟩
  · unfold powerOnSetup
    refine DriveFrame.trans ?_ (scanFrame_coreSet .vcom true _).drive
    refine DriveFrame.trans ?_ (scanFrame_coreSet .spv true _).drive
    refine DriveFrame.trans ?_ (scanFrame_coreSet .gmod true _).drive
    refine DriveFrame.trans ?_ (scanFrame_coreSet .oe false _).drive
    refine DriveFrame.trans ?_ (scanFrame_fastSet _ _).drive
    refine DriveFrame.trans ?_ (scanFrame_fastClear _ _).drive
    refine DriveFrame.trans ?_ (driveFrame_fastDirOut _ _)
    refine DriveFrame.trans ?_ (scanFrame_coreOut .spv _).drive
    refine DriveFrame.trans ?_ (scanFrame_coreOut .gmod _).drive
    refine DriveFrame.trans ?_ (scanFrame_coreOut .oe _).drive
    refine DriveFrame.trans ?_ (scanFrame_emit _ _).drive
    refine DriveFrame.trans ?_ (scanFrame_coreSet .pwrup true _).drive
    refine DriveFrame.trans ?_ (scanFrame_emit _ _).drive
    refine DriveFrame.trans ?_ (scanFrame_coreSet .wakeup true _).drive
    refine DriveFrame.trans ?_ (scanFrame_coreOut .vcom _).drive
    refine DriveFrame.trans ?_ (scanFrame_coreOut .pwrup _).drive
    exact (driveFrame_setPwr .enabling s).trans (scanFrame_coreOut .wakeup _).drive
  · intro sig
    cases sig <;> simp [powerOnSetup, corePin_eq_iff h]
  · intro sig
    cases sig <;> simp [powerOnSetup, corePin_eq_iff h]

/-- What POWER_ON_SEQ does after power-good was seen (46 R331). -/
theorem powerOnFinish_spec (s : State) (h : corePinsOk s.cfg = true) :
    DriveFrame s (powerOnFinish s) ∧ (powerOnFinish s).pwr = .on ∧ (powerOnFinish s).pwrFail = false ∧
    (powerOnFinish s).lastErr = s.lastErr ∧
    (powerOnFinish s).fastDir = s.fastDir ∧ (powerOnFinish s).fastOut = s.fastOut ∧
    (∀ q, pinIsInput (powerOnFinish s) .x0 q = pinIsInput s .x0 q) ∧
    (∀ sig, pinLatch (powerOnFinish s) .x0 (corePin s.cfg sig) =
      (decide (sig = .oe) || pinLatch s .x0 (corePin s.cfg sig))) := by
  have hf := scanFrame_coreSet .oe true s
  have hl : ∀ c q, pinLatch (powerOnFinish s) c q = pinLatch (coreSet .oe true s) c q :=
    pinLatch_eq_of (fun c a => by cases c <;> rfl)
  have hi : ∀ c q, pinIsInput (powerOnFinish s) c q = pinIsInput (coreSet .oe true s) c q :=
    pinIsInput_eq_of (fun c a => by cases c <;> rfl)
  refine ⟨?_, rfl, rfl, ?_, ?_, ?_, fun q => by simp [hi], fun sig => ?_⟩
  · refine hf.drive.trans ((driveFrame_setPwr .on _).trans ?_)
    exact (show DriveFrame _ (powerOnFinish s) from rfl)
  · show (coreSet .oe true s).lastErr = s.lastErr
    rw [hf]
  · simp [powerOnFinish]
  · simp [powerOnFinish]
  · rw [hl, pinLatch_coreSet]
    by_cases hs : sig = .oe
    · simp [hs]
    · simp [hs, corePin_eq_iff h]

/-- What POWER_ON_ABORT does: every control line at its OFF-state level, and code 6 recorded (46 R333, R338). -/
theorem powerOnAbort_spec (s : State) :
    DriveFrame s (powerOnAbort s) ∧ (powerOnAbort s).pwr = .off ∧ (powerOnAbort s).pwrFail = true ∧
    (powerOnAbort s).lastErr = 6 ∧ (powerOnAbort s).fastDir = s.fastDir ∧
    (powerOnAbort s).fastOut = s.fastOut &&& ~~~(panelMask s.cfg) ∧
    (∀ q, pinIsInput (powerOnAbort s) .x0 q = pinIsInput s .x0 q) ∧
    (∀ sig, pinLatch (powerOnAbort s) .x0 (corePin s.cfg sig) = false) := by
  refine ⟨?_, by simp [powerOnAbort], by simp [powerOnAbort], by simp [powerOnAbort, ErrCode.num],
    by simp [powerOnAbort], by simp [powerOnAbort], fun q => by simp [powerOnAbort], fun sig => ?_⟩
  · unfold powerOnAbort
    refine DriveFrame.trans ?_ (driveFrame_pgTimeout _)
    refine DriveFrame.trans ?_ (driveFrame_setPwr .off _)
    refine DriveFrame.trans ?_ (scanFrame_fastClear _ _).drive
    refine DriveFrame.trans ?_ (scanFrame_coreSet .spv false _).drive
    refine DriveFrame.trans ?_ (scanFrame_coreSet .gmod false _).drive
    refine DriveFrame.trans ?_ (scanFrame_coreSet .oe false _).drive
    refine DriveFrame.trans ?_ (scanFrame_coreSet .pwrup false _).drive
    refine DriveFrame.trans ?_ (scanFrame_coreSet .vcom false _).drive
    exact (scanFrame_coreSet .wakeup false s).drive
  · cases sig <;> simp [powerOnAbort]

/-- What POWER_OFF_SEQ does before its poll (46 R334). -/
theorem powerOffSetup_spec (s : State) :
    DriveFrame s (powerOffSetup s) ∧ (powerOffSetup s).pwrFail = s.pwrFail ∧
    (powerOffSetup s).lastErr = s.lastErr ∧ (powerOffSetup s).fastDir = s.fastDir ∧
    (powerOffSetup s).fastOut = s.fastOut &&& ~~~(panelMask s.cfg) ∧
    (∀ q, pinIsInput (powerOffSetup s) .x0 q = pinIsInput s .x0 q) ∧
    (∀ sig, pinLatch (powerOffSetup s) .x0 (corePin s.cfg sig) = false) := by
  refine ⟨?_, by simp [powerOffSetup], by simp [powerOffSetup], by simp [powerOffSetup], ?_,
    fun q => by simp [powerOffSetup], fun sig => by cases sig <;> simp [powerOffSetup]⟩
  · unfold powerOffSetup
    refine DriveFrame.trans ?_ (scanFrame_coreSet .wakeup false _).drive
    refine DriveFrame.trans ?_ (scanFrame_coreSet .pwrup false _).drive
    refine DriveFrame.trans ?_ (scanFrame_emit _ _).drive
    refine DriveFrame.trans ?_ (scanFrame_coreSet .vcom false _).drive
    refine DriveFrame.trans ?_ (scanFrame_fastClear _ _).drive
    refine DriveFrame.trans ?_ (scanFrame_fastClear _ _).drive
    refine DriveFrame.trans ?_ (scanFrame_coreSet .spv false _).drive
    refine DriveFrame.trans ?_ (scanFrame_coreSet .gmod false _).drive
    exact (driveFrame_setPwr .disabling s).trans (scanFrame_coreSet .oe false _).drive
  · simp only [powerOffSetup, coreSet_fastOut, delayMs_fastOut, fastClear_fastOut, setPwr_fastOut, panelMask]
    ext i
    simp only [BitVec.getElem_and, BitVec.getElem_not, BitVec.getElem_or]
    cases s.fastOut[i] <;> cases (dataMask s.cfg)[i] <;> cases (clMask s.cfg)[i] <;> cases (leMask s.cfg)[i] <;>
      cases (ckvMask s.cfg)[i] <;> cases (sphMask s.cfg)[i] <;> rfl

end Sys2Proof.Machine
end

