-- ==== Sys2Proof/Laws/Shows.lean ====
section
/-! SUPPORT. Which lines each operation of the scan and power sequencers shows (44_scan, 46_power), and what holds in
every state of a run. -/

namespace Sys2Proof.Machine

/-! ### Scripts -/

theorem scriptEvents_append (ls ms : List Line) (v : Vector Byte 22) :
    scriptEvents (ls ++ ms) v = scriptEvents ls v ++ scriptEvents ms (scriptImage ls v) := by
  induction ls generalizing v with
  | nil => rfl
  | cons l ls ih => simp only [List.cons_append, scriptEvents, ih, List.append_assoc]; rfl

theorem scriptImage_append (ls ms : List Line) (v : Vector Byte 22) :
    scriptImage (ls ++ ms) v = scriptImage ms (scriptImage ls v) := List.foldl_append

theorem Shows.refl (s : State) : Shows [] s s := ⟨(List.append_nil _).symm, rfl⟩

/-- Lines shown one after the other. -/
theorem Shows.trans {ls ms : List Line} {s t u : State} (h : Shows ls s t) (k : Shows ms t u) :
    Shows (ls ++ ms) s u := by
  refine ⟨?_, ?_⟩
  · rw [k.1, h.1, h.2, scriptEvents_append, List.append_assoc]
  · rw [k.2, h.2, scriptImage_append]

/-- One line, then the others. -/
theorem Shows.cons {l : Line} {ls : List Line} {s t u : State} (h : Shows [l] s t) (k : Shows ls t u) :
    Shows (l :: ls) s u := h.trans k

/-- What only differs in other fields shows the same. -/
theorem Shows.congr {ls : List Line} {s t s' t' : State} (h : Shows ls s t) (hs : s'.trace = s.trace)
    (hv : s'.shadow0 = s.shadow0) (ht : t'.trace = t.trace) (hw : t'.shadow0 = t.shadow0) : Shows ls s' t' := by
  unfold Shows at *
  rw [hs, hv, ht, hw]
  exact h

/-- A repetition shows the lines of its rounds, in ascending order. -/
theorem shows_forUpTo {f : Nat → State → State} {lines : Nat → List Line} {P : State → Prop} (n : Nat)
    (hf : ∀ k s, k < n → P s → P (f k s) ∧ Shows (lines k) s (f k s)) {s : State} (h : P s) :
    P (forUpTo n f s) ∧ Shows ((List.range n).flatMap lines) s (forUpTo n f s) := by
  induction n with
  | zero => exact ⟨h, Shows.refl s⟩
  | succ n ih =>
    have hn := ih fun k t hk => hf k t (hk.trans n.lt_succ_self)
    have hl := hf n _ n.lt_succ_self hn.1
    refine ⟨hl.1, ?_⟩
    rw [List.range_succ, List.flatMap_append, List.flatMap_singleton]
    exact hn.2.trans hl.2

/-! ### Primitives -/

theorem shows_emit (e : Event) (s : State) : Shows [.event e] s (emit e s) := ⟨rfl, rfl⟩
theorem shows_fastSet (m : Word) (s : State) : Shows [.event (.fset m)] s (fastSet m s) := ⟨rfl, rfl⟩
theorem shows_fastClear (m : Word) (s : State) : Shows [.event (.fclr m)] s (fastClear m s) := ⟨rfl, rfl⟩
theorem shows_fastDirOut (m : Word) (s : State) : Shows [.event (.fdir m)] s (fastDirOut m s) := ⟨rfl, rfl⟩
theorem shows_delayUs (n : Nat) (s : State) : Shows [.event (.dus n)] s (delayUs n s) := ⟨rfl, rfl⟩
theorem shows_delayMs (n : Nat) (s : State) : Shows [.event (.dms n)] s (delayMs n s) := ⟨rfl, rfl⟩
theorem shows_pmicWrite (a v : Byte) (s : State) : Shows [.event (.pw a v)] s (pmicWrite a v s) := ⟨rfl, rfl⟩
theorem shows_setPwr (p : Pwr) (s : State) : Shows [] s (setPwr p s) := (Shows.refl s).congr rfl rfl rfl rfl
theorem shows_recordError (e : ErrCode) (s : State) : Shows [] s (recordError e s) := by
  cases e <;> exact (Shows.refl s).congr rfl rfl rfl rfl

/-- One shadow update of expander 0: the byte takes its value, and is pushed exactly when it changes (41 R175). -/
theorem shadowSet1_x0 (a : RegAddr) (v : Byte) (s : State) :
    (shadowSet1 .x0 a v s).trace = s.trace ++ (if s.shadow0.get a = v then [] else [.xw .x0 a v]) ∧
    (shadowSet1 .x0 a v s).shadow0 = s.shadow0.set a.val v a.isLt := by
  refine ⟨shadowSet1_trace .x0 a v s, ?_⟩
  unfold shadowSet1
  split
  · next h =>
    have h' : s.shadow0[a.val] = v := h
    rw [← h', Vector.set_getElem_self]
  · rfl

/-- `CORE_SET` shows its line (41 R176). -/
theorem shows_coreSet (sig : CoreSig) (l : Bool) (s : State) :
    Shows [.latch (corePin s.cfg sig) l] s (coreSet sig l s) := by
  unfold coreSet pinOutSet shadowSet Shows
  simp only [List.foldl_cons, List.foldl_nil, scriptEvents, scriptImage, lineEvents, lineImage, lineUpdates,
    List.flatMap_cons, List.flatMap_nil, List.append_nil]
  exact shadowSet1_x0 _ _ s

/-- `CORE_OUT` shows its line (41 R178). -/
theorem shows_coreOut (sig : CoreSig) (s : State) : Shows [.out (corePin s.cfg sig)] s (coreOut sig s) := by
  unfold coreOut pinModeSet shadowSet Shows
  simp only [List.foldl_cons, List.foldl_nil, scriptEvents, scriptImage, lineEvents, lineImage, lineUpdates,
    List.flatMap_cons, List.flatMap_nil, List.append_nil, pinModeBytes]
  refine ⟨?_, ?_⟩
  · have hne : ¬(Chip.x0 = .x0 ∧ gppuOf (corePin s.cfg sig) = iodirOf (corePin s.cfg sig)) :=
      fun h => iodirOf_ne_gppuOf _ _ h.2.symm
    rw [shadowSet1_trace, shadowSet1_trace, shadowGet_shadowSet1, if_neg hne, List.append_assoc]
    rfl
  · rw [(shadowSet1_x0 _ _ _).2, (shadowSet1_x0 _ _ _).2]
    rfl

/-! ### The scan primitives (44 R260-R263) -/

theorem shows_columnWrite (d : Byte) (s : State) : Shows (columnLines s.cfg d) s (columnWrite d s) :=
  (shows_fastSet _ s).cons (shows_fastClear _ _)

theorem shows_hscanStartSeq (d : Byte) (s : State) :
    Shows ([.event (.fclr (sphMask s.cfg))] ++ columnLines s.cfg d ++
      [.event (.fset (sphMask s.cfg)), .event (.fset (ckvMask s.cfg))]) s (hscanStartSeq d s) :=
  ((shows_fastClear _ s).trans (shows_columnWrite d _)).trans ((shows_fastSet _ _).cons (shows_fastSet _ _))

theorem shows_vscanEndSeq (s : State) :
    Shows [.event (.fclr (ckvMask s.cfg)), .event (.fset (leMask s.cfg)), .event (.fclr (leMask s.cfg))] s
      (vscanEndSeq s) :=
  (shows_fastClear _ s).cons ((shows_fastSet _ _).cons (shows_fastClear _ _))

theorem shows_vscanStartSeq (s : State) : Shows (vscanStartLines s.cfg) s (vscanStartSeq s) := by
  have hl : ∀ (l : Bool) (t : State), t.cfg = s.cfg → Shows [.latch s.cfg.pinSpv l] t (coreSet .spv l t) :=
    fun l t ht => ht ▸ shows_coreSet .spv l t
  unfold vscanStartSeq vscanStartLines
  refine (shows_fastSet _ _).cons <| (shows_delayUs _ _).cons <| (hl false _ (by simp)).cons <|
    (shows_delayUs _ _).cons <| (shows_fastClear _ _).cons <| (shows_delayUs _ _).cons <| (shows_fastSet _ _).cons <|
    (shows_delayUs _ _).cons <| (hl true _ (by simp)).cons <| (shows_delayUs _ _).cons <|
    (shows_fastClear _ _).cons <| (shows_delayUs _ _).cons <| (shows_fastSet _ _).cons <| (shows_delayUs _ _).cons <|
    (shows_fastClear _ _).cons <| (shows_delayUs _ _).cons <| (shows_fastSet _ _).cons <| (shows_delayUs _ _).cons <|
    (shows_fastClear _ _).cons <| (shows_delayUs _ _).cons (shows_fastSet _ _)

/-! ### The poll (46 R332) -/

/-- How many of `n` reads a poll makes: up to the first answer that satisfies `pred`. -/
def readsWithin (n : Nat) (pred : Byte → Bool) (s : State) : Nat :=
  match (List.range n).find? (fun k => pred (pmicAnswer s k)) with
  | some k => k + 1
  | none => n

theorem readsWithin_succ (n : Nat) (pred : Byte → Bool) (s t : State)
    (ht : ∀ k, pmicAnswer t k = pmicAnswer s (k + 1)) :
    readsWithin (n + 1) pred s = if pred (pmicAnswer s 0) then 1 else readsWithin n pred t + 1 := by
  unfold readsWithin
  rw [List.range_succ_eq_map, List.find?_cons]
  cases h : pred (pmicAnswer s 0) with
  | true => rfl
  | false =>
    simp only [List.find?_map, Function.comp_def, Nat.succ_eq_add_one, ht, Bool.false_eq_true, if_false]
    cases (List.range n).find? fun k => pred (pmicAnswer s (k + 1)) <;> rfl

/-- The poll's events: a delay and a read for each answer it reads (46 R332). -/
theorem shows_pgPoll_within (pred : Byte → Bool) (n : Nat) (s : State) :
    Shows ((List.range (readsWithin n pred s)).flatMap fun k =>
      [.event (.dms pgPollMs), .event (.pr s.cfg.pgReg (pmicAnswer s k))]) s (pgPoll pred n s).2 := by
  induction n generalizing s with
  | zero => exact Shows.refl s
  | succ n ih =>
    have h0 : (pmicRead s.cfg.pgReg (delayMs pgPollMs s)).1 = pmicAnswer s 0 := drawPmic_fst _
    have hs : ∀ k, pmicAnswer (pmicRead s.cfg.pgReg (delayMs pgPollMs s)).2 k = pmicAnswer s (k + 1) :=
      fun k => pmicAnswer_pmicRead _ _ k
    have hf : PollFrame (delayMs pgPollMs s) (drawPmic (delayMs pgPollMs s)).2 := pollFrame_drawPmic _
    have ht : (drawPmic (delayMs pgPollMs s)).2.trace = (delayMs pgPollMs s).trace := by
      unfold drawPmic
      split <;> rfl
    have hc : (pmicRead s.cfg.pgReg (delayMs pgPollMs s)).2.cfg = s.cfg := by
      show (drawPmic (delayMs pgPollMs s)).2.cfg = s.cfg
      rw [hf]
      rfl
    have h1 : Shows [.event (.dms pgPollMs), .event (.pr s.cfg.pgReg (pmicAnswer s 0))] s
        (pmicRead s.cfg.pgReg (delayMs pgPollMs s)).2 := by
      refine (shows_delayMs _ s).cons ?_
      rw [← h0]
      exact (shows_emit _ _).congr ht.symm (by rw [hf]) rfl rfl
    simp only [pgPoll]
    rw [readsWithin_succ n pred s _ hs, h0]
    split
    · exact h1
    · have h2 := ih (pmicRead s.cfg.pgReg (delayMs pgPollMs s)).2
      rw [hc] at h2
      simp only [hs] at h2
      rw [List.range_succ_eq_map, List.flatMap_cons, List.flatMap_map]
      exact h1.trans h2

/-- The poll of a sequence that began in `s`, run in a state `u` whose answers are those of `s` from number `k` on. -/
theorem shows_pgPoll (pred : Byte → Bool) (s u : State) (k : Nat) (hc : u.cfg = s.cfg)
    (hk : ∀ n, pmicAnswer u n = pmicAnswer s (k + n)) :
    Shows (pollLines pred s k) u (pgPoll pred pgTimeoutMs u).2 := by
  have h := shows_pgPoll_within pred pgTimeoutMs u
  unfold readsWithin at h
  simp only [hk, hc] at h
  exact h

/-! ### The states of a run (70 R412) -/

theorem mem_statesFrom_self (n : Nat) (s : State) : s ∈ statesFrom n s := by
  cases n <;> simp [statesFrom]

/-- A property that every step of the run keeps holds in every state of the run. -/
theorem statesFrom_keeps {P : State → Prop} (n : Nat) (s : State)
    (h : ∀ t u, t ∈ statesFrom n s → P t → step t = .next u → P u) (hs : P s) : ∀ t ∈ statesFrom n s, P t := by
  induction n generalizing s with
  | zero => simpa [statesFrom] using hs
  | succ n ih =>
    intro t ht
    rcases List.mem_cons.1 ht with rfl | ht
    · exact hs
    · cases hstep : step s with
      | next u =>
        rw [hstep] at ht
        have hsub : ∀ v, v ∈ statesFrom n u → v ∈ statesFrom (n + 1) s := fun v hv =>
          List.mem_cons_of_mem _ (by rw [hstep]; exact hv)
        exact ih u (fun v w hv => h v w (hsub v hv)) (h s u (mem_statesFrom_self _ s) hs hstep) t ht
      | fault r => rw [hstep] at ht; exact absurd ht List.not_mem_nil
      | refused r => rw [hstep] at ht; exact absurd ht List.not_mem_nil

end Sys2Proof.Machine
end

