-- ==== Sys2Proof/Laws/Tables.lean ====
section
/-! SUPPORT. Lanes and drive bytes determine each other (42 R201). -/

namespace Sys2Proof.Machine

/-- The drive byte built from four codes holds each in its lane. -/
@[simp] theorem lane_ofLanes (f : Fin 4 → BitVec 2) (j : Fin 4) : lane (ofLanes f) j = f j := by
  have h : ∀ a b c d : BitVec 2, (a ++ b ++ c ++ d : BitVec 8).extractLsb' 0 2 = d ∧
      (a ++ b ++ c ++ d : BitVec 8).extractLsb' 2 2 = c ∧ (a ++ b ++ c ++ d : BitVec 8).extractLsb' 4 2 = b ∧
      (a ++ b ++ c ++ d : BitVec 8).extractLsb' 6 2 = a := by decide
  obtain ⟨h0, h1, h2, h3⟩ := h (f 3) (f 2) (f 1) (f 0)
  match j with
  | 0 => exact h0
  | 1 => exact h1
  | 2 => exact h2
  | 3 => exact h3

/-- A drive byte is the one built from its lanes. -/
theorem ofLanes_lane (d : Byte) : ofLanes (lane d) = d := by
  revert d; decide +kernel

/-- Two drive bytes with the same lanes are equal. -/
theorem lane_ext {d e : Byte} (h : ∀ j, lane d j = lane e j) : d = e := by
  rw [← ofLanes_lane d, ← ofLanes_lane e, funext h]

/-- A bit of a drive byte is a bit of one of its lanes. -/
theorem lane_getLsbD (d : Byte) (g : Fin 4) (i : Nat) (hi : i < 2) :
    (lane d g).getLsbD i = d.getLsbD (2 * g.val + i) := by
  simp [lane, hi]

theorem lane_and (a b : Byte) (g : Fin 4) : lane (a &&& b) g = lane a g &&& lane b g := by
  simp [lane, BitVec.extractLsb'_and]

theorem lane_or (a b : Byte) (g : Fin 4) : lane (a ||| b) g = lane a g ||| lane b g := by
  simp [lane, BitVec.extractLsb'_or]

end Sys2Proof.Machine
end

