-- ==== Sys2Proof/Tests/Slice0.lean ====
section
/-! SUPPORT. The row's own tests: ill-formed operands and parameters refused, words written out from 30_encoding,
one-step vectors of 95_test_vectors, and a witness for every statement that has hypotheses. -/

namespace Sys2Proof.Machine.Tests

/-! ### Helpers -/

/-- What a test reads of an outcome that is a next state; false for a fault or a refusal. -/
def after (o : Host.Outcome State Fault Refusal) (p : State → Bool) : Bool :=
  match o with
  | .next t => p t
  | .fault _ => false
  | .refused _ => false

/-- The reason of a refusal. -/
def refusal (o : Host.Outcome State Fault Refusal) : Option Refusal :=
  match o with
  | .refused r => some r
  | .next _ => none
  | .fault _ => none

/-- The step that takes the command word `w`. -/
def cmd (w : Word) (s : State) : Host.Outcome State Fault Refusal := step (pushCommand w s)

/-- The step that takes the host action `a`. -/
def act (a : HostInput) (s : State) : Host.Outcome State Fault Refusal := step { s with hostIn := [a] }

/-- The events a step added. -/
def added (s t : State) : List Event := t.trace.drop s.trace.length

/-- CleanLaunch of TC (95 section 2). -/
def launch : State := State.reset

/-- TC while ON, as V-P1 leaves it: OLATA = 0x3F, IODIRA = 0xC0, FAST_DIR = 0xC78C0035, FAST_OUT = 0x80000000. -/
def powered : State :=
  { launch with
    pwr := .on
    shadow0 := (launch.shadow0.set 0x00 0xC0).set 0x14 0x3F
    fastDir := 0xC78C0035
    fastOut := 0x80000000 }

/-- TC in GRAY, as V-F5 leaves it. -/
def gray : State := { launch with mode := .gray, forcedFull := true }

/-- V-G1: expander 0 absent. -/
def absent0 : State := { launch with xpresent0 := false }

/-- The power-good and the power-cleared answer of TC. -/
def good (s : State) : State := { s with envPmic := [0xFA, 0x00] }

/-- 250 answers that are not good. -/
def bad (s : State) : State := { s with envPmic := List.replicate 250 0x00 }

/-! ### Operands that have no encoding (30 R130) -/

theorem test_wf_x_above : (Instr.setpix 2048 0 0).WellFormed = false := by decide
theorem test_wf_x_below : (Instr.setpix (-2049) 0 0).WellFormed = false := by decide
theorem test_wf_y_above : (Instr.setpix 0 2048 0).WellFormed = false := by decide
theorem test_wf_y_below : (Instr.setpix 0 (-2049) 0).WellFormed = false := by decide
theorem test_wf_edges : (Instr.setpix (-2048) 2047 7).WellFormed = true := by decide

/-! ### Parameters that break 00 R10, one check each -/

theorem test_cfg_tc : configOk Config.tc = true := by decide
theorem test_cfg_width : configOk { Config.tc with w := 12 } = false := by decide
theorem test_cfg_no_width : configOk { Config.tc with w := 0 } = false := by decide
theorem test_cfg_wide : configOk { Config.tc with w := 2048 } = false := by decide
theorem test_cfg_no_height : configOk { Config.tc with h := 0 } = false := by decide
theorem test_cfg_high : configOk { Config.tc with h := 2048 } = false := by decide
theorem test_cfg_positions_clash : configOk { Config.tc with clPos := 19 } = false := by decide
theorem test_cfg_position_32 : configOk { Config.tc with lePos := 32 } = false := by decide
theorem test_cfg_codes : configOk { Config.tc with codeWhite := 0b01 } = false := by decide
/-- R9, R302: whatever the codes, the clean tail is two passes. -/
theorem test_clean_tail (c : Config) : passCount (cleanTail c) = 2 := rfl
theorem test_cfg_repeat_0 : configOk { Config.tc with grayTail := [(0, 0)] } = false := by decide
theorem test_cfg_preamble_1 : configOk { Config.tc with fullPreamble := [(1, 1)] } = false := by decide
theorem test_cfg_core_pins : configOk { Config.tc with pinVcom := 0 } = false := by decide
theorem test_step_refuses_bad_cfg :
    refusal (step { launch with cfg := { Config.tc with w := 12 } }) = some .badConfig := by decide

/-! ### Words written out field by field: opcode, then the format's fields (30 R111-R116, R119) -/

theorem test_decode_nop : decode 0b00000_000000000000000000000000000 = .command .nop := by decide
theorem test_decode_setpix :
    decode 0b00001_000000000101_000000000011_111 = .command (.setpix 5 3 7) := by decide
theorem test_decode_setpix_negative :
    decode 0b00001_111111111111_100000000000_001 = .command (.setpix (-1) (-2048) 1) := by decide
theorem test_decode_clear : decode 0b00010_000000000000000000000000000 = .command .clear := by decide
theorem test_decode_setmode :
    decode 0b00011_00000000000000000000000000_1 = .command (.setmode .gray) := by decide
theorem test_decode_setmode_mono :
    decode 0b00011_00000000000000000000000000_0 = .command (.setmode .mono) := by decide
theorem test_decode_setrot : decode 0b00100_0000000000000000000000000_10 = .command (.setrot 2) := by decide
theorem test_decode_display : decode 0b00101_000000000000000000000000000 = .command .display := by decide
theorem test_decode_partial : decode 0b00110_000000000000000000000000000 = .command .partialRefresh := by decide
theorem test_decode_pwron : decode 0b00111_000000000000000000000000000 = .command .pwron := by decide
theorem test_decode_pwroff : decode 0b01000_000000000000000000000000000 = .command .pwroff := by decide
theorem test_decode_vstart : decode 0b01001_000000000000000000000000000 = .command .vstart := by decide
theorem test_decode_hstart :
    decode 0b01010_0000000000000000000_10101010 = .command (.hstart 0xAA) := by decide
theorem test_decode_hdata :
    decode 0b01011_0000000000000000000_01010101 = .command (.hdata 0x55) := by decide
theorem test_decode_vend : decode 0b01100_000000000000000000000000000 = .command .vend := by decide
theorem test_decode_pinmode :
    decode 0b01101_1_1001_00000000000000000000_01 = .command (.pinmode .x1 9 .output) := by decide
theorem test_decode_pinmode_pullup :
    decode 0b01101_0_1111_00000000000000000000_10 = .command (.pinmode .x0 15 .inputPullup) := by decide
theorem test_decode_pinwrite :
    decode 0b01110_1_1001_00000000000000000000_01 = .command (.pinwrite .x1 9 true) := by decide
theorem test_decode_pinread :
    decode 0b01111_0_0111_00000000000000000000_00 = .command (.pinread .x0 7) := by decide
theorem test_decode_reserved :
    decode 0b10000_000000000000000000000000001 = .command (.reserved 1) := by decide

/-- Reserved bits of each format, the lowest or the highest, and the reserved mode (30 R111-R116, R122). -/
theorem test_reserved_z : decode 0x00000001 = .rejected .reservedBit := by decide
theorem test_reserved_z_high : decode 0x4C000000 = .rejected .reservedBit := by decide
theorem test_reserved_m : decode 0x18000002 = .rejected .reservedBit := by decide
theorem test_reserved_r : decode 0x20000004 = .rejected .reservedBit := by decide
theorem test_reserved_d : decode 0x50000100 = .rejected .reservedBit := by decide
theorem test_reserved_x : decode 0x68200001 = .rejected .reservedBit := by decide
theorem test_reserved_pinwrite : decode 0x70000002 = .rejected .reservedBit := by decide
theorem test_reserved_pinread : decode 0x78000001 = .rejected .reservedBit := by decide
theorem test_reserved_mode : decode 0x68000003 = .rejected .reservedMode := by decide

theorem test_decode_table_word : decodeTableWord 32 0x18000001 = some (.setmode .gray) := by decide
theorem test_decode_table_word_short : decodeTableWord 16 0xF0001 = none := by decide

/-! ### One step each, from the vectors of 95_test_vectors -/

/-- 40 R152: NOP gives the same state and no event. -/
theorem test_nop : after (cmd 0x00000000 launch) (fun t => t = launch) = true := by decide

/-- 43 R231 Example: FB1 = [0x80, 0x00]. -/
theorem test_setpix : after (cmd 0x08000001 launch) (fun t => t.fb1 = [(0, 0x80)] ∧ t.trace = launch.trace) = true := by
  decide

/-- 95 P4: an odd pixel of row 1 is the low nibble of byte 7. -/
theorem test_setpix_gray : after (cmd 0x0803800D gray) (fun t => t.fb3 = [(7, 0x75)]) = true := by decide

/-- 43 R232 Example. -/
theorem test_clear :
    after (cmd 0x10000000 { launch with fb1 := [(0, 0x80), (1, 0x01)], prev := [(0, 0x80)] })
      (fun t => t.fb1 = [] ∧ t.prev = [(0, 0x80)]) = true := by decide

/-- 43 R233 Example: STATUS becomes 0x72. -/
theorem test_setmode :
    after (cmd 0x18000001 { launch with fb1 := [(0, 0x80)], prev := [(0, 0x80)] })
      (fun t => t.fb1 = [] ∧ t.prev = [] ∧ status t = 0x72) = true := by decide

/-- 43 R233: SETMODE to the current mode changes not even FORCED_FULL. -/
theorem test_setmode_same :
    after (cmd 0x18000000 { launch with fb1 := [(0, 0x80)] })
      (fun t => t.fb1 = [(0, 0x80)] ∧ t.forcedFull = false) = true := by decide

/-- 43 R234 Example: STATUS[3:2] = 2. -/
theorem test_setrot : after (cmd 0x20000002 launch) (fun t => status t = 0x68) = true := by decide

/-- 95 V-R1, V-R2: the full refresh of FB1 = [0x80, 0x01] adds 282 events. -/
theorem test_display :
    after (cmd 0x28000000 { good launch with fb1 := [(0, 0x80), (1, 0x01)] })
      (fun t => (added launch t).length = 282 ∧ t.prev = [(0, 0x80), (1, 0x01)] ∧ t.pwr = .off) = true := by
  decide +kernel

/-- 95 V-R1: the gray refresh adds 492 events. -/
theorem test_display_gray :
    after (cmd 0x28000000 (good gray)) (fun t => (added gray t).length = 492 ∧ t.forcedFull = true) = true := by
  decide +kernel

/-- 95 V-R1: the partial refresh of FB1 = [0x80, 0x00] adds 240 events. -/
theorem test_partial :
    after (cmd 0x30000000 { good launch with fb1 := [(0, 0x80)] })
      (fun t => (added launch t).length = 240 ∧ t.prev = [(0, 0x80)] ∧ status t = 0x60) = true := by
  decide +kernel

/-- 95 V-R1: PARTIAL in GRAY adds no event. -/
theorem test_partial_gray : after (cmd 0x30000000 gray) (fun t => t = gray) = true := by decide

/-- 95 V-P1: the 19 events of 46 R331. -/
theorem test_pwron :
    after (cmd 0x38000000 (good launch)) (fun t =>
      status t = 0x61 ∧ added launch t =
        [.xw .x0 0x00 0xF7, .xw .x0 0x00 0xE7, .xw .x0 0x00 0xC7, .xw .x0 0x14 0x08, .dms 5, .xw .x0 0x14 0x18,
         .pw 0x01 0x3F, .xw .x0 0x00 0xC6, .xw .x0 0x00 0xC4, .xw .x0 0x00 0xC0, .fdir 0xC78C0035,
         .fclr 0x478C0035, .fset 0x80000000, .xw .x0 0x14 0x1A, .xw .x0 0x14 0x1E, .xw .x0 0x14 0x3E, .dms 1,
         .pr 0x0F 0xFA, .xw .x0 0x14 0x3F]) = true := by decide +kernel

/-- 95 V-P3: power never good, 522 events, STATUS = 0x60E0. -/
theorem test_pwron_timeout :
    after (cmd 0x38000000 (bad launch)) (fun t =>
      status t = 0x60E0 ∧ (added launch t).length = 522 ∧ t.fastOut = 0 ∧ shadowGet t .x0 0x14 = 0x00) = true := by
  decide +kernel

/-- 46 R334 Example: the 11 events. -/
theorem test_pwroff :
    after (cmd 0x40000000 { powered with envPmic := [0x00] }) (fun t =>
      status t = 0x60 ∧ t.fastOut = 0 ∧ added launch t =
        [.xw .x0 0x14 0x3E, .xw .x0 0x14 0x3C, .xw .x0 0x14 0x38, .fclr 0xC0000000, .fclr 0x078C0035,
         .xw .x0 0x14 0x18, .dms 6, .xw .x0 0x14 0x08, .xw .x0 0x14 0x00, .dms 1, .pr 0x0F 0x00]) = true := by
  decide +kernel

/-- 44 R264 Example: the 21 events. -/
theorem test_vstart :
    after (cmd 0x48000000 powered) (fun t =>
      t.fastOut = 0xC0000000 ∧ added powered t =
        [.fset 0x40000000, .dus 7, .xw .x0 0x14 0x3B, .dus 10, .fclr 0x40000000, .dus 0, .fset 0x40000000, .dus 8,
         .xw .x0 0x14 0x3F, .dus 10, .fclr 0x40000000, .dus 0, .fset 0x40000000, .dus 18, .fclr 0x40000000, .dus 0,
         .fset 0x40000000, .dus 18, .fclr 0x40000000, .dus 0, .fset 0x40000000]) = true := by decide +kernel

/-- 95 V-G4: a reserved bit is code 2 before power is checked. -/
theorem test_vstart_reserved_bit : after (cmd 0x48000001 launch) (fun t => status t = 0x2160) = true := by decide

/-- 44 R265 Example. -/
theorem test_hstart :
    after (cmd 0x500000AA powered) (fun t =>
      t.fastOut = 0xC0000000 ∧ added powered t =
        [.fclr 0x80000000, .fset 0x05080021, .fclr 0x078C0031, .fset 0x80000000, .fset 0x40000000]) = true := by
  decide +kernel

/-- 95 V-S1: HSTART while OFF is code 5 and adds no event. -/
theorem test_hstart_off :
    after (cmd 0x500000AA launch) (fun t => status t = 0x5260 ∧ t.trace = launch.trace) = true := by decide

/-- 44 R266 Example. -/
theorem test_hdata :
    after (cmd 0x58000055 powered) (fun t =>
      t.fastOut = 0x80000000 ∧ added powered t = [.fset 0x02840011, .fclr 0x078C0031]) = true := by decide +kernel

/-- 44 R267 Example. -/
theorem test_vend :
    after (cmd 0x60000000 { powered with fastOut := 0xC0000000 }) (fun t =>
      t.fastOut = 0x80000000 ∧ added powered t = [.fclr 0x40000000, .fset 0x00000004, .fclr 0x00000004]) = true := by
  decide +kernel

/-- 41 R172 Example. -/
theorem test_pinmode :
    after (cmd 0x6E400001 launch) (fun t =>
      shadowGet t .x1 0x01 = 0xFD ∧ added launch t = [.xw .x1 0x01 0xFD]) = true := by decide +kernel

/-- 95 V-X1: a core pin of expander 0 is code 4. -/
theorem test_pinmode_core : after (cmd 0x68C00001 launch) (fun t => status t = 0x4160) = true := by decide

/-- 41 R173 Example. -/
theorem test_pinwrite :
    after (cmd 0x76400001 launch) (fun t =>
      shadowGet t .x1 0x15 = 0x02 ∧ added launch t = [.xw .x1 0x15 0x02]) = true := by decide +kernel

/-- 95 V-X1: the level the latch holds already emits nothing. -/
theorem test_pinwrite_same :
    after (cmd 0x76400000 launch) (fun t => t.trace = launch.trace ∧ status t = 0x60) = true := by decide +kernel

/-- 41 R174 Example. -/
theorem test_pinread :
    after (cmd 0x79C00000 { launch with envExp := [0x80] }) (fun t =>
      t.result = 1 ∧ shadowGet t .x0 0x12 = 0x80 ∧ added launch t = [.xr .x0 0x12 0x80]) = true := by decide +kernel

/-- 95 V-G3: PINREAD of an absent expander while ON halts the block, STATUS = 0x7821. -/
theorem test_pinread_absent :
    after (cmd 0x7C000000 { powered with xpresent1 := false }) (fun t => status t = 0x7821) = true := by decide

/-- 95 P3: a reserved opcode is code 1. -/
theorem test_reserved_opcode : after (cmd 0x80000000 launch) (fun t => status t = 0x1160) = true := by decide

/-- 95 V-G1: a halted block ignores a reserved opcode without a flag. -/
theorem test_halted :
    after (cmd 0x80000000 { absent0 with fault := true, errCmd := true, lastErr := 7 })
      (fun t => status t = 0x7940) = true := by decide

/-- 70 R390, 41 R170 Example: RESET with both expanders answering 22 bytes of 0x00 gives the state of 95 section 2. -/
theorem test_reset :
    after (act .reset { powered with
      fb1 := [(0, 1)], mode := .gray, fault := true, envAcks := [true, true], envExp := List.replicate 44 0 })
      (fun t => t = launch) = true := by decide +kernel

/-- 95 V-G1: expander 0 does not acknowledge: STATUS = 0x40. -/
theorem test_reset_absent :
    after (act .reset { launch with envAcks := [false, true], envExp := List.replicate 22 0 }) (fun t =>
      status t = 0x40 ∧ t.trace = .xprobe .x0 false :: initEvents .x1) = true := by decide +kernel

/-- 40 R153, 10 R45: the host reads STATUS, and CMD as 0; an access of 16 bits is refused (20 R86). -/
theorem test_read_status : after (act (.read 4 32) launch) (fun t => t.readData = 0x60) = true := by decide
theorem test_read_cmd : after (act (.read 0 32) { launch with readData := 5 }) (fun t => t.readData = 0) = true := by
  decide
theorem test_read_halfword : refusal (act (.read 4 16) launch) = some .undecodedAccess := by decide

/-- 42 R202 and R203, R204 examples. -/
theorem test_pinlut : pinlut Config.tc 0x1B = 0x00880030 ∧ dataMask Config.tc = 0x078C0030 := by decide
theorem test_lut : lutw Config.tc 0x7 = 0xEA ∧ lutb Config.tc 0x8 = 0x7F := by decide

/-- 95 V-T3, third row. -/
theorem test_comparator :
    monoPair Config.tc (toWhite 0xF0 0x3C) (toBlack 0xF0 0x3C) = (0x5F, 0xAF) := by decide

/-- 95 V-T4: GRAY_BYTE(1, 0x30, 0x77) = 0x10. -/
theorem test_gray_byte : grayByte Config.tc 1 0x30 0x77 = 0x10 := by decide

/-- 43 R230 Example. -/
theorem test_rotate :
    rotate Config.tc 1 1 0 = (7, 1) ∧ rotate Config.tc 2 0 0 = (7, 1) ∧ rotate Config.tc 3 0 0 = (0, 1) := by decide

/-! ### Witnesses: for every statement with hypotheses, states and operands that meet them, one per clause -/

theorem witness_DecodeOfEncodeIsIdentity : (Instr.setpix (-2048) 2047 7).WellFormed = true := by decide

theorem witness_EncodeOfDecodeIsIdentity : decode 0x0BFFBFFF = .command (.setpix 2047 2047 7) := by decide

/-- One word of each clause of `ReservedFieldWord`, at the edges of its reserved field, and one word of none. -/
theorem witness_ReservedFieldWord :
    ReservedFieldWord 0x04000000 ∧ ReservedFieldWord 0x18000002 ∧ ReservedFieldWord 0x20000004 ∧
    ReservedFieldWord 0x50000100 ∧ ReservedFieldWord 0x68000004 ∧ ReservedFieldWord 0x68000003 ∧
    ReservedFieldWord 0x70000002 ∧ ReservedFieldWord 0x78200000 ∧ ¬ReservedFieldWord 0x78400000 := by
  refine ⟨?_, ?_, ?_, ?_, ?_, ?_, ?_, ?_, ?_⟩ <;> · dsimp only [ReservedFieldWord]; decide

theorem witness_DecoderRejectsExactlyReservedFields :
    (∃ e, decode 0x68000003 = .rejected e) ∧ ¬∃ e, decode 0x7FC00000 = .rejected e :=
  ⟨⟨.reservedMode, by decide⟩,
    fun ⟨_, h⟩ => nomatch (show decode 0x7FC00000 = .command (.pinread .x1 15) by decide).symm.trans h⟩

theorem witness_EncodingExamplesOfTheSpec :
    ((Instr.pinread .x0 7, 0x79C00000) : Instr × Word) ∈ [((Instr.pinread .x0 7, 0x79C00000) : Instr × Word)] := by
  decide

theorem witness_StepRunsTheDecodedCommand :
    Ready (pushCommand 0x20000002 launch) ∧ CmdPending (pushCommand 0x20000002 launch) 0x20000002 [] ∧
    decode 0x20000002 = .command (.setrot 2) := by
  unfold Ready CmdPending; decide

theorem witness_HaltedAndBusyBlocksDropCommands :
    configOk launch.cfg = true ∧
    (CmdPending (pushCommand 0x0 { absent0 with fault := true }) 0x0 [] ∧
      (pushCommand 0x0 { absent0 with fault := true }).fault = true) ∧
    (CmdPending (pushCommand 0x0 { launch with busy := true }) 0x0 [] ∧
      (pushCommand 0x0 { launch with busy := true }).fault = false ∧
      (pushCommand 0x0 { launch with busy := true }).busy = true) := by
  unfold CmdPending; decide

theorem witness_ReservedOpcodeOnlyRecordsCodeOne :
    Ready (pushCommand 0x80000000 launch) ∧ CmdPending (pushCommand 0x80000000 launch) 0x80000000 [] ∧
    (0x80000000 : Word).getLsbD 31 = true := by
  unfold Ready CmdPending; decide

theorem witness_ReservedFieldOnlyRecordsCodeTwo :
    Ready (pushCommand 0x68000003 launch) ∧ CmdPending (pushCommand 0x68000003 launch) 0x68000003 [] ∧
    ReservedFieldWord 0x68000003 := by
  unfold Ready CmdPending ReservedFieldWord; decide

theorem witness_HostRegisterAccesses :
    configOk launch.cfg = true ∧
    { launch with hostIn := [.read 4 32] }.hostIn = .read (launch.cfg.regBase + 4) 32 :: [] ∧
    { launch with hostIn := [.read 8 32] }.hostIn = .read (launch.cfg.regBase + 8) 32 :: [] ∧
    { launch with hostIn := [.read 0 32] }.hostIn = .read launch.cfg.regBase 32 :: [] ∧
    { launch with hostIn := [.write 4 32 1] }.hostIn = .write (launch.cfg.regBase + 4) 32 1 :: [] ∧
    { launch with hostIn := [.write 8 32 1] }.hostIn = .write (launch.cfg.regBase + 8) 32 1 :: [] := by decide

/-- The offset 0xC, a misaligned address, and a width of 16 bits. -/
theorem witness_UndecodedAccessesAreRefused :
    configOk launch.cfg = true ∧
    (∀ a : Nat × Nat, a ∈ [(0xC, 32), (1, 32), (0, 16)] →
      ¬(a.2 = 32 ∧ a.1 ∈ [launch.cfg.regBase, launch.cfg.regBase + 4, launch.cfg.regBase + 8])) ∧
    { launch with hostIn := [.write 0xC 32 1] }.hostIn = .write 0xC 32 1 :: [] ∧
    { launch with hostIn := [.read 0 16] }.hostIn = .read 0 16 :: [] := by decide

theorem witness_IdleBlocksStayAndBadParametersAreRefused :
    (configOk launch.cfg = true ∧ launch.hostIn = []) ∧ configOk { Config.tc with h := 0 } = false := by decide

theorem witness_ResetSetsEveryField :
    configOk powered.cfg = true ∧ { powered with hostIn := [.reset] }.hostIn = .reset :: [] := by decide

/-- A reset is pending; expander 0 answers 22 bytes of 0x5A, expander 1 does not, one byte is left on the tape. -/
def resetting : State :=
  { powered with hostIn := [.reset], envAcks := [true, false], envExp := List.replicate 22 0x5A ++ [7] }

theorem witness_ResetInitialisesTheExpanders :
    configOk resetting.cfg = true ∧ resetting.hostIn = .reset :: [] ∧ resetting.envAcks = true :: false :: [] ∧
    (List.replicate 22 (0x5A : Byte)).length = 22 ∧
    resetting.envExp =
      (if true then List.replicate 22 0x5A else []) ++ (if false then List.replicate 22 0x5A else []) ++ [7] := by
  decide

/-- Both probes acknowledged: the CleanLaunch clause. -/
theorem witness_ResetInitialisesBothExpanders :
    { resetting with envAcks := [true, true], envExp := List.replicate 44 0x5A }.envAcks = true :: true :: [] ∧
    { resetting with envAcks := [true, true], envExp := List.replicate 44 0x5A }.envExp =
      (if true then List.replicate 22 0x5A else []) ++ (if true then List.replicate 22 0x5A else []) ++ [] := by
  decide

theorem witness_PinlutIsInjectiveByDecoding : configOk Config.tc = true := test_cfg_tc
theorem witness_PinlutLaws : configOk Config.tc = true := test_cfg_tc
theorem witness_TransitionTableLanes : configOk Config.tc = true := test_cfg_tc

theorem witness_ComparatorMasks : 7 < 8 := by decide

/-- The corners of the extent in each shape, and the corner of the panel. -/
theorem witness_RotationIsABijection :
    inExtent Config.tc 0 7 1 = true ∧ inExtent Config.tc 1 1 7 = true ∧ inExtent Config.tc 2 0 0 = true ∧
    inExtent Config.tc 3 1 7 = true ∧ ((0 : Int) ≤ 7 ∧ (7 : Int) < Config.tc.w ∧ (0 : Int) ≤ 1 ∧ (1 : Int) < Config.tc.h) := by
  decide

theorem witness_SetpixMonoWritesOnePixel :
    configOk launch.cfg = true ∧ Memory.wf monoBlank [(0, 0x80)] = true ∧ launch.mode = .mono ∧
    inExtent launch.cfg launch.rot 7 1 = true ∧ 7 < launch.cfg.w ∧ 1 < launch.cfg.h := by decide

theorem witness_SetpixGrayWritesOnePixel :
    configOk gray.cfg = true ∧ Memory.wf (grayBlank gray.cfg) [(7, 0x75)] = true ∧ gray.mode = .gray ∧
    inExtent gray.cfg gray.rot 7 1 = true ∧ 7 < gray.cfg.w ∧ 1 < gray.cfg.h := by decide

/-- x = -1, y = -1, x = W, y = H in rotation 0, x = H, y = W in rotation 1. -/
theorem witness_SetpixOutsideTheExtentIsDiscarded :
    (-1 : Int) < 0 ∧ (launch.rot = 0 ∧ (launch.cfg.w : Int) ≤ 8 ∧ (launch.cfg.h : Int) ≤ 2) ∧
    ({ launch with rot := 1 }.rot = 1 ∧ (launch.cfg.h : Int) ≤ 2 ∧ (launch.cfg.w : Int) ≤ 8) := by decide

theorem witness_ClearBlanksTheActiveBuffer : launch.mode = .mono ∧ gray.mode = .gray := by decide

theorem witness_SetmodeChangesTheModeAndBlanks :
    (Mode.gray ≠ launch.mode ∧ launch.cfg.grayWhite = 7) ∧ Mode.mono = launch.mode := by decide

/-- Pin 6 of expander 0 is no core pin; pin 0 of expander 1 never is. Both expanders are present. -/
theorem witness_PinmodeSetsOnePin :
    (namesCorePin launch.cfg .x0 6 = false ∧ xpresent launch .x0 = true) ∧
    (namesCorePin launch.cfg .x1 0 = false ∧ xpresent launch .x1 = true) := by decide

theorem witness_PinwriteSetsOneLatch :
    (namesCorePin launch.cfg .x0 15 = false ∧ xpresent launch .x0 = true) ∧
    (namesCorePin launch.cfg .x1 0 = false ∧ xpresent launch .x1 = true) := by decide

theorem witness_PinreadReturnsTheAnsweredBit : xpresent launch .x0 = true ∧ xpresent launch .x1 = true := by decide

/-- Pin 0 of expander 0 is a core pin; pin 6 of an absent expander 0 and pin 0 of an absent expander 1 are not. -/
theorem witness_PinCommandErrors :
    (0 : Pin) ∈ corePins launch.cfg ∧
    (¬(Chip.x0 = .x0 ∧ (6 : Pin) ∈ corePins absent0.cfg) ∧ xpresent absent0 .x0 = false) ∧
    (¬(Chip.x1 = .x0 ∧ (0 : Pin) ∈ corePins launch.cfg) ∧
      xpresent { launch with xpresent1 := false } .x1 = false) := by decide

theorem witness_RawScanCommandsAreGatedOnPower :
    launch.pwr ≠ .on ∧ ({ absent0 with pwr := .on }.pwr = .on ∧ { absent0 with pwr := .on }.xpresent0 = false) := by
  decide

theorem witness_VstartEmitsTheStartSequence : powered.pwr = .on ∧ powered.xpresent0 = true := by decide
theorem witness_HstartLatchesTheFirstWord : powered.pwr = .on := by decide
theorem witness_HdataClocksOneWord : powered.pwr = .on := by decide
theorem witness_VendPulsesTheLatch : powered.pwr = .on := by decide

theorem witness_PassEventCount : configOk powered.cfg = true ∧ SpvHigh powered := by
  unfold SpvHigh; decide

theorem witness_PassReturnsToIdleLevels : configOk powered.cfg = true ∧ IdleLevels powered := by
  unfold IdleLevels SpvHigh; decide

/-- The last answer within the timeout is the good one. -/
def lateGood : State := { launch with envPmic := List.replicate 249 0x00 ++ [0xFA] }

/-- Expander 0 has a core pin, a pin that is none, and a register that no core pin uses. -/
theorem witness_PwronReachesOn :
    configOk lateGood.cfg = true ∧ lateGood.pwr ≠ .on ∧ lateGood.xpresent0 = true ∧ PowerComesGood lateGood ∧
    (0 : Pin) ∈ corePins lateGood.cfg ∧ (15 : Pin) ∉ corePins lateGood.cfg ∧
    ∀ p, p ∈ corePins lateGood.cfg →
      (0x15 : RegAddr) ≠ iodirOf p ∧ (0x15 : RegAddr) ≠ gppuOf p ∧ (0x15 : RegAddr) ≠ olatOf p :=
  ⟨by decide, by decide, by decide, ⟨249, by decide, by decide +kernel⟩, by decide, by decide, by decide⟩

theorem bad_noGoodAnswer : NoGoodAnswer (bad launch) := by
  unfold NoGoodAnswer; decide +kernel

theorem witness_PowerNeverGoodFailsSafe : configOk (bad launch).cfg = true ∧ PowerFails (bad launch) :=
  ⟨by decide, by decide, by decide, bad_noGoodAnswer⟩

theorem witness_PwroffReachesOff :
    configOk powered.cfg = true ∧ powered.pwr ≠ .off ∧ powered.xpresent0 = true ∧
    (0 : Pin) ∈ corePins powered.cfg ∧ (15 : Pin) ∉ corePins powered.cfg ∧
    ∀ p, p ∈ corePins powered.cfg → (0x15 : RegAddr) ≠ olatOf p := by decide

theorem witness_PowerNoOpsAndAbsentExpander :
    powered.pwr = .on ∧ launch.pwr = .off ∧ (absent0.xpresent0 = false ∧ absent0.pwr ≠ .on ∧ absent0.mode = .mono) ∧
    ({ absent0 with pwr := .on }.xpresent0 = false ∧ { absent0 with pwr := .on }.pwr ≠ .off) := by decide

theorem blank_bufferInv (s : State) (hc : s.cfg = Config.tc) (h1 : s.fb1 = []) (h2 : s.prev = []) (h3 : s.fb3 = []) :
    BufferInv s := by
  unfold BufferInv fb3Read
  rw [hc, h1, h2, h3]
  exact ⟨rfl, rfl, rfl, rfl, rfl, rfl, fun _ => ⟨rfl, rfl⟩, fun _ => rfl, fun _ => by
    show grayBlank Config.tc &&& 0x88 = 0
    decide⟩

/-- A refresh from OFF whose power comes good, and one from ON. -/
theorem witness_DisplayMonoCommitsAndPowersOff :
    (configOk (good launch).cfg = true ∧ (good launch).mode = .mono ∧ CanPower (good launch)) ∧
    (configOk powered.cfg = true ∧ powered.mode = .mono ∧ CanPower powered) :=
  ⟨⟨by decide, by decide, by decide, .inr ⟨0, by decide, by decide⟩⟩, by decide, by decide, by decide, .inl (by decide)⟩

theorem witness_PartialCommitsAndPowersOff :
    configOk (good launch).cfg = true ∧ BufferInv (good launch) ∧ (good launch).mode = .mono ∧
    (good launch).forcedFull = false ∧ CanPower (good launch) :=
  ⟨by decide, blank_bufferInv _ rfl rfl rfl rfl, by decide, by decide, by decide, .inr ⟨0, by decide, by decide⟩⟩

theorem witness_DisplayGrayLeavesHistoryAlone :
    configOk (good gray).cfg = true ∧ (good gray).mode = .gray ∧ CanPower (good gray) :=
  ⟨by decide, by decide, by decide, .inr ⟨0, by decide, by decide⟩⟩

theorem witness_PartialForcedFullAndGray :
    ({ launch with forcedFull := true }.mode = .mono ∧ { launch with forcedFull := true }.forcedFull = true) ∧
    gray.mode = .gray := by decide

theorem witness_PartialIsIdempotent :
    (good launch).prev = (good launch).fb1 ∧ configOk (good launch).cfg = true ∧ BufferInv (good launch) ∧
    (good launch).mode = .mono ∧ (good launch).forcedFull = false ∧ CanPower (good launch) :=
  ⟨by decide, witness_PartialCommitsAndPowersOff⟩

theorem witness_RefreshWithoutPowerDrivesNothing : PowerFails (bad launch) ∧ (bad launch).mode = .mono :=
  ⟨⟨by decide, by decide, bad_noGoodAnswer⟩, by decide⟩

theorem powered_powerInv : PowerInv powered :=
  ⟨by decide, by decide, by decide, fun _ => ⟨by decide, by decide, by decide⟩, by decide,
    fun h => absurd h (by decide)⟩

theorem witness_RefreshPassCounts :
    configOk powered.cfg = true ∧ PowerInv powered ∧ powered.pwr = .on ∧ powered.mode = .mono ∧
    powered.forcedFull = false :=
  ⟨by decide, powered_powerInv, by decide, by decide, by decide⟩

theorem witness_RefreshPassCountsGray :
    configOk { powered with mode := .gray }.cfg = true ∧ PowerInv { powered with mode := .gray } ∧
    { powered with mode := .gray }.pwr = .on ∧ { powered with mode := .gray }.mode = .gray :=
  ⟨by decide, powered_powerInv, by decide, by decide⟩

/-- A state with a nonblank buffer. -/
theorem witness_PartialCommitIsAnOverwrite : BufferInv { launch with fb1 := [(0, 0x80)] } :=
  ⟨by decide, by decide, by decide, by decide, by decide, by decide, by decide, by decide, fun _ => by
    show grayBlank Config.tc &&& 0x88 = 0
    decide⟩

theorem witness_StepKeepsBufferInv :
    BufferInv (pushCommand 0x08000001 launch) ∧ after (step (pushCommand 0x08000001 launch)) (fun _ => true) = true :=
  ⟨blank_bufferInv _ rfl rfl rfl rfl, by decide⟩

theorem witness_StepKeepsPowerInv :
    PowerInv (pushCommand 0x48000000 powered) ∧
    after (step (pushCommand 0x48000000 powered)) (fun _ => true) = true :=
  ⟨powered_powerInv, by decide +kernel⟩

theorem witness_StepKeepsStatusInv :
    PowerInv (pushCommand 0x80000000 powered) ∧ StatusInv (pushCommand 0x80000000 powered) ∧
    after (step (pushCommand 0x80000000 powered)) (fun _ => true) = true :=
  ⟨powered_powerInv, by unfold StatusInv; decide, by decide⟩

/-- Sticky errors are set, and the action is no reset. -/
theorem witness_StepKeepsParametersTraceAndStickyErrors :
    after (cmd 0x0 { launch with errCmd := true, errNopwr := true, lastErr := 1 }) (fun _ => true) = true ∧
    (pushCommand 0x0 launch).hostIn.head? ≠ some .reset ∧ { launch with lastErr := 1 }.lastErr ≠ 0 ∧
    after (cmd 0x0 { launch with fault := true }) (fun _ => true) = true := by decide

/-- NOP meets the premise of every clause on writers at once, in each mode. -/
theorem witness_OnlyTheNamedCommandsWrite :
    after (exec .nop launch) (fun _ => true) = true ∧ launch.mode = .mono ∧
    after (exec .nop gray) (fun _ => true) = true ∧ gray.mode = .gray ∧
    kindOf .nop ≠ .rotation ∧ (∀ c, kindOf .nop ≠ .pinRead c) ∧
    kindOf .nop ∉ [.power, .refresh, .scanStart, .scanWord, .pin .x0, .pin .x1, .pinRead .x0, .pinRead .x1, .reserved] ∧
    kindOf .nop ∈ [.idle, .buffer, .rotation, .reserved] ∧ kindOf .nop ≠ .buffer ∧ (∀ m, Instr.nop ≠ .setmode m) :=
  ⟨by decide, by decide, by decide, by decide, by decide, nofun, by decide, by decide, by decide,
    nofun⟩

theorem witness_HostCannotMoveCorePins :
    after (exec (.pinmode .x0 6 .output) launch) (fun _ => true) = true ∧ (0 : Pin) ∈ corePins launch.cfg := by
  decide +kernel

theorem witness_TraceAccountsForEveryOutput : after (exec .vstart powered) (fun _ => true) = true := by decide +kernel

/-- PWRON, PWROFF and NOP are pending; both polls see their answer at the first read. -/
def goodRun : State :=
  { good launch with hostIn := [.write 0 32 0x38000000, .write 0 32 0x40000000, .write 0 32 0x00000000] }

theorem witness_GoodPowerRunsNeverTimeOut :
    goodRun.pwrFail = false ∧ goodRun.lastErr ≠ 6 ∧ PowerGoodAtFirstPoll goodRun ∧
    (statesOfRun goodRun).map (fun t => t.pwr) = [.off, .on, .off, .off] := by
  unfold PowerGoodAtFirstPoll; decide +kernel

/-- PWRON is pending and no answer is good. -/
def badRun : State := { bad launch with hostIn := [.write 0 32 0x38000000] }

theorem witness_NeverGoodRunsNeverReachOn :
    badRun.pwr = .off ∧ badRun.fastOut &&& panelMask badRun.cfg = 0 ∧ PowerNeverGood badRun ∧
    (statesOfRun badRun).map (fun t => t.pwrFail) = [false, true] := by
  unfold PowerNeverGood NoGoodAnswer; decide +kernel

end Sys2Proof.Machine.Tests
end

/-! ### What a command can do to the trace and to the fields it must keep (10 R49; 43 R237; 60 R370) -/

namespace Sys2Proof.Machine

/-- Every error has a code, and 0 is none of them (60 R360). -/
theorem ErrCode.num_ne_zero (e : ErrCode) : e.num ≠ 0 := by cases e <;> decide

/-- From `s` to `t` the trace grew by `new`, and these events make of the outputs of `s` those of `t` (00 R13). -/
def Replays (new : List Event) (s t : State) : Prop :=
  t.trace = s.trace ++ new ∧
  t.fastOut = new.foldl fastOutAfter s.fastOut ∧ t.fastDir = new.foldl fastDirAfter s.fastDir ∧
  t.shadow0 = new.foldl (imageAfter .x0) s.shadow0 ∧ t.shadow1 = new.foldl (imageAfter .x1) s.shadow1

theorem Replays.refl (s : State) : Replays [] s s := ⟨(List.append_nil _).symm, rfl, rfl, rfl, rfl⟩

theorem Replays.trans {es fs : List Event} {s t u : State} (h : Replays es s t) (k : Replays fs t u) :
    Replays (es ++ fs) s u := by
  obtain ⟨htrace, hout, hdir, h0, h1⟩ := h
  obtain ⟨ktrace, kout, kdir, k0, k1⟩ := k
  refine ⟨by rw [ktrace, htrace, List.append_assoc], ?_, ?_, ?_, ?_⟩
  all_goals rw [List.foldl_append]
  · rw [← hout, kout]
  · rw [← hdir, kdir]
  · rw [← h0, k0]
  · rw [← h1, k1]

/-- What every part of a command keeps: the parameters, the host's actions, the sticky errors, and a trace that
accounts for the outputs. -/
structure CommandEffect (s t : State) : Prop where
  cfg_eq : t.cfg = s.cfg
  hostIn_eq : t.hostIn = s.hostIn
  errCmd_sticky : s.errCmd = true → t.errCmd = true
  errNopwr_sticky : s.errNopwr = true → t.errNopwr = true
  fault_sticky : s.fault = true → t.fault = true
  lastErr_sticky : s.lastErr ≠ 0 → t.lastErr ≠ 0
  replays : ∃ new, Replays new s t

/-- `t` is `s` but for fields that no event and no sticky error speaks of. -/
def QuietFrame (s t : State) : Prop :=
  t = { s with
    mode := t.mode
    rot := t.rot
    forcedFull := t.forcedFull
    pwr := t.pwr
    fb1 := t.fb1
    fb3 := t.fb3
    prev := t.prev
    pwrFail := t.pwrFail
    busy := t.busy
    result := t.result
    readData := t.readData
    envAcks := t.envAcks
    envExp := t.envExp
    envPmic := t.envPmic
    draws := t.draws }

theorem quietFrame_drawExp (s : State) : QuietFrame s (drawExp s).2 := by
  obtain ⟨_, _, h⟩ := drawExp_frame s
  rw [h]; rfl

theorem quietFrame_drawPmic (s : State) : QuietFrame s (drawPmic s).2 := by
  unfold drawPmic
  split <;> rfl

theorem quietFrame_clearCmd (s : State) : QuietFrame s (clearCmd s) := by
  unfold clearCmd
  split <;> rfl

theorem quietFrame_setmodeCmd (m : Mode) (s : State) : QuietFrame s (setmodeCmd m s) := by
  unfold setmodeCmd
  split <;> rfl

theorem quietFrame_fb1Write {i : Nat} {v : Byte} {s t : State} (h : fb1Write i v s = .next t) : QuietFrame s t := by
  unfold fb1Write at h
  split at h
  · cases h; rfl
  · cases h

theorem quietFrame_fb3Write {i : Nat} {v : Byte} {s t : State} (h : fb3Write i v s = .next t) : QuietFrame s t := by
  unfold fb3Write at h
  split at h
  · cases h; rfl
  · cases h

/-- A pixel changes at most one byte of the buffer of its mode (43 R231). -/
theorem quietFrame_execSetpix {x y : Int} {v : BitVec 3} {s t : State} (h : execSetpix x y v s = .next t) :
    QuietFrame s t := by
  unfold execSetpix at h
  split at h
  · dsimp only at h
    split at h
    · exact quietFrame_fb1Write h
    · exact quietFrame_fb3Write h
  · cases h; rfl

namespace CommandEffect

variable {s t : State}

protected theorem refl (s : State) : CommandEffect s s := ⟨rfl, rfl, id, id, id, id, [], Replays.refl s⟩

protected theorem trans {u : State} (h : CommandEffect s t) (k : CommandEffect t u) : CommandEffect s u where
  cfg_eq := k.cfg_eq.trans h.cfg_eq
  hostIn_eq := k.hostIn_eq.trans h.hostIn_eq
  errCmd_sticky := k.errCmd_sticky ∘ h.errCmd_sticky
  errNopwr_sticky := k.errNopwr_sticky ∘ h.errNopwr_sticky
  fault_sticky := k.fault_sticky ∘ h.fault_sticky
  lastErr_sticky := k.lastErr_sticky ∘ h.lastErr_sticky
  replays :=
    have ⟨_, hr⟩ := h.replays
    have ⟨_, kr⟩ := k.replays
    ⟨_, hr.trans kr⟩

/-! Each operation of the model after an effect is an effect: a proof below reads like the sequence it is about. -/

section Primitives

variable (h : CommandEffect s t)
include h

theorem then_quiet {u : State} (k : QuietFrame t u) : CommandEffect s u := by
  refine h.trans ?_
  rw [k]
  exact ⟨rfl, rfl, id, id, id, id, [], Replays.refl t⟩

theorem then_setPwr (p : Pwr) : CommandEffect s (setPwr p t) := h.then_quiet rfl

theorem then_fastSet (m : Word) : CommandEffect s (fastSet m t) :=
  h.trans ⟨rfl, rfl, id, id, id, id, [.fset m], rfl, rfl, rfl, rfl, rfl⟩

theorem then_fastClear (m : Word) : CommandEffect s (fastClear m t) :=
  h.trans ⟨rfl, rfl, id, id, id, id, [.fclr m], rfl, rfl, rfl, rfl, rfl⟩

theorem then_fastDirOut (m : Word) : CommandEffect s (fastDirOut m t) :=
  h.trans ⟨rfl, rfl, id, id, id, id, [.fdir m], rfl, rfl, rfl, rfl, rfl⟩

theorem then_delayUs (n : Nat) : CommandEffect s (delayUs n t) :=
  h.trans ⟨rfl, rfl, id, id, id, id, [.dus n], rfl, rfl, rfl, rfl, rfl⟩

theorem then_delayMs (n : Nat) : CommandEffect s (delayMs n t) :=
  h.trans ⟨rfl, rfl, id, id, id, id, [.dms n], rfl, rfl, rfl, rfl, rfl⟩

theorem then_pmicWrite (a v : Byte) : CommandEffect s (pmicWrite a v t) :=
  h.trans ⟨rfl, rfl, id, id, id, id, [.pw a v], rfl, rfl, rfl, rfl, rfl⟩

theorem then_pmicRead (a : Byte) : CommandEffect s (pmicRead a t).2 :=
  (h.then_quiet (quietFrame_drawPmic t)).trans
    ⟨rfl, rfl, id, id, id, id, [.pr a (drawPmic t).1], rfl, rfl, rfl, rfl, rfl⟩

/-- An error sets its flag and leaves a code other than 0 (60 R360). -/
theorem then_recordError (e : ErrCode) : CommandEffect s (recordError e t) where
  cfg_eq := by simpa using h.cfg_eq
  hostIn_eq := by simpa using h.hostIn_eq
  errCmd_sticky hs := by simp [h.errCmd_sticky hs]
  errNopwr_sticky hs := by simp [h.errNopwr_sticky hs]
  fault_sticky hs := by simp [h.fault_sticky hs]
  lastErr_sticky _ := e.num_ne_zero
  replays := by simpa [Replays] using h.replays

/-! ### Pins (41 R174-R178) -/

/-- A shadow byte that changes is pushed, one that does not is left (41 R175). -/
theorem then_shadowSet1 (c : Chip) (a : RegAddr) (v : Byte) : CommandEffect s (shadowSet1 c a v t) := by
  unfold shadowSet1
  split
  · exact h
  · cases c <;> exact h.trans ⟨rfl, rfl, id, id, id, id, [.xw _ a v], rfl, rfl, rfl, rfl, rfl⟩

/-- A read puts into the shadow the byte its event shows (41 R174). -/
theorem then_expRead (c : Chip) (a : RegAddr) :
    CommandEffect s (shadowPut c a (expRead c a t).1 (expRead c a t).2) := by
  refine (h.then_quiet (quietFrame_drawExp t)).trans ?_
  cases c <;> exact ⟨rfl, rfl, id, id, id, id, [.xr _ a (drawExp t).1], rfl, rfl, rfl, rfl, rfl⟩

theorem then_pinOutSet (c : Chip) (p : Pin) (l : Bool) : CommandEffect s (pinOutSet c p l t) :=
  h.then_shadowSet1 c _ _

theorem then_pinModeSet (c : Chip) (p : Pin) (mode : PinMode) : CommandEffect s (pinModeSet c p mode t) :=
  (h.then_shadowSet1 c _ _).then_shadowSet1 c _ _

theorem then_coreSet (sig : CoreSig) (l : Bool) : CommandEffect s (coreSet sig l t) := h.then_pinOutSet .x0 _ l

theorem then_coreOut (sig : CoreSig) : CommandEffect s (coreOut sig t) := h.then_pinModeSet .x0 _ .output

theorem then_pinmodeCmd (c : Chip) (p : Pin) (mode : PinMode) : CommandEffect s (pinmodeCmd c p mode t) := by
  unfold pinmodeCmd
  split
  · exact h.then_recordError .corePin
  · split
    · exact h.then_pinModeSet c p mode
    · exact h.then_recordError .absent

theorem then_pinwriteCmd (c : Chip) (p : Pin) (l : Bool) : CommandEffect s (pinwriteCmd c p l t) := by
  unfold pinwriteCmd
  split
  · exact h.then_recordError .corePin
  · split
    · exact h.then_pinOutSet c p l
    · exact h.then_recordError .absent

theorem then_pinreadCmd (c : Chip) (p : Pin) : CommandEffect s (pinreadCmd c p t) := by
  unfold pinreadCmd
  split
  · exact (h.then_expRead c (gpioOf p)).then_quiet rfl
  · exact h.then_recordError .absent

/-! ### Scans (44 R260-R269) -/

theorem then_vscanStartSeq : CommandEffect s (vscanStartSeq t) :=
  h.then_fastSet _ |>.then_delayUs _
    |>.then_coreSet .spv false |>.then_delayUs _
    |>.then_fastClear _ |>.then_delayUs _
    |>.then_fastSet _ |>.then_delayUs _
    |>.then_coreSet .spv true |>.then_delayUs _
    |>.then_fastClear _ |>.then_delayUs _
    |>.then_fastSet _ |>.then_delayUs _
    |>.then_fastClear _ |>.then_delayUs _
    |>.then_fastSet _ |>.then_delayUs _
    |>.then_fastClear _ |>.then_delayUs _
    |>.then_fastSet _

theorem then_columnWrite (d : Byte) : CommandEffect s (columnWrite d t) := h.then_fastSet _ |>.then_fastClear _

theorem then_hscanStartSeq (d : Byte) : CommandEffect s (hscanStartSeq d t) :=
  h.then_fastClear _ |>.then_fastSet _ |>.then_fastClear _ |>.then_fastSet _ |>.then_fastSet _

theorem then_vscanEndSeq : CommandEffect s (vscanEndSeq t) :=
  h.then_fastClear _ |>.then_fastSet _ |>.then_fastClear _

theorem then_scanRow (b : WordSource) (y : Nat) : CommandEffect s (scanRow b y t) :=
  (forUpTo_keeps _ (fun k _ _ hk => hk.then_columnWrite (b y (k + 1))) (h.then_hscanStartSeq (b y 0))).then_vscanEndSeq

theorem then_pass (b : WordSource) : CommandEffect s (pass b t) :=
  (forUpTo_keeps _ (fun y _ _ hy => hy.then_scanRow b y) h.then_vscanStartSeq).then_delayUs _

theorem then_repeatPass (n : Nat) (b : State → WordSource) : CommandEffect s (repeatPass n b t) :=
  forUpTo_keeps n (fun _ u _ hu => hu.then_pass (b u)) h

theorem then_cleanList (l : List (BitVec 2 × Nat)) : CommandEffect s (cleanList l t) :=
  foldl_keeps l (fun _ e _ hu => hu.then_repeatPass e.2 (bClean e.1)) h

theorem then_grayPasses : CommandEffect s (grayPasses t) :=
  foldl_keeps phases (fun u p _ hu => hu.then_pass (bGray p u)) h

theorem then_vstartCmd : CommandEffect s (vstartCmd t) := by
  unfold vstartCmd
  split
  · split
    · exact h.then_vscanStartSeq
    · exact h.then_recordError .absent
  · exact h.then_recordError .noPower

theorem then_hstartCmd (d : Byte) : CommandEffect s (hstartCmd d t) := by
  unfold hstartCmd
  split
  · exact h.then_hscanStartSeq d
  · exact h.then_recordError .noPower

theorem then_hdataCmd (d : Byte) : CommandEffect s (hdataCmd d t) := by
  unfold hdataCmd
  split
  · exact h.then_columnWrite d
  · exact h.then_recordError .noPower

theorem then_vendCmd : CommandEffect s (vendCmd t) := by
  unfold vendCmd
  split
  · exact h.then_vscanEndSeq
  · exact h.then_recordError .noPower

/-! ### Power (46 R331-R334) -/

theorem then_pgPoll (pred : Byte → Bool) (n : Nat) : CommandEffect s (pgPoll pred n t).2 := by
  induction n generalizing t with
  | zero => exact h
  | succ n ih =>
    have hread := (h.then_delayMs pgPollMs).then_pmicRead t.cfg.pgReg
    simp only [pgPoll]
    split
    · exact hread
    · exact ih hread

theorem then_powerOnSetup : CommandEffect s (powerOnSetup t) :=
  h.then_setPwr .enabling
    |>.then_coreOut .wakeup |>.then_coreOut .pwrup |>.then_coreOut .vcom
    |>.then_coreSet .wakeup true |>.then_delayMs _
    |>.then_coreSet .pwrup true
    |>.then_pmicWrite _ _
    |>.then_coreOut .oe |>.then_coreOut .gmod |>.then_coreOut .spv
    |>.then_fastDirOut _
    |>.then_fastClear _
    |>.then_fastSet _
    |>.then_coreSet .oe false |>.then_coreSet .gmod true |>.then_coreSet .spv true
    |>.then_coreSet .vcom true

theorem then_powerOnFinish : CommandEffect s (powerOnFinish t) := (h.then_coreSet .oe true).then_quiet rfl

theorem then_powerOnAbort : CommandEffect s (powerOnAbort t) :=
  h.then_coreSet .wakeup false |>.then_coreSet .vcom false |>.then_coreSet .pwrup false
    |>.then_coreSet .oe false |>.then_coreSet .gmod false |>.then_coreSet .spv false
    |>.then_fastClear _
    |>.then_setPwr .off
    |>.then_recordError .pgTimeout

theorem then_powerOnSeq : CommandEffect s (powerOnSeq t) := by
  have hpoll := h.then_powerOnSetup.then_pgPoll (pgGood t.cfg) pgTimeoutMs
  unfold powerOnSeq
  split
  · exact h
  · split
    · dsimp only
      split
      · exact hpoll.then_powerOnFinish
      · exact hpoll.then_powerOnAbort
    · exact h.then_recordError .absent

theorem then_powerOffSetup : CommandEffect s (powerOffSetup t) :=
  h.then_setPwr .disabling
    |>.then_coreSet .oe false |>.then_coreSet .gmod false |>.then_coreSet .spv false
    |>.then_fastClear _
    |>.then_fastClear _
    |>.then_coreSet .vcom false
    |>.then_delayMs _
    |>.then_coreSet .pwrup false |>.then_coreSet .wakeup false

theorem then_powerOffSeq : CommandEffect s (powerOffSeq t) := by
  unfold powerOffSeq
  split
  · exact h
  · split
    · exact (h.then_powerOffSetup.then_pgPoll (pgCleared t.cfg) pgTimeoutMs).then_setPwr .off
    · exact h.then_recordError .absent

/-! ### Refreshes (45 R290-R296) -/

theorem then_commitPartial : CommandEffect s (commitPartial t) :=
  forUpTo_keeps _ (fun _ _ _ hu => hu.then_quiet rfl) h

theorem then_fullMonoBody : CommandEffect s (fullMonoBody t) :=
  h.then_cleanList _ |>.then_repeatPass fullFwdRepeat bFwd |>.then_repeatPass fullRevRepeat bRev
    |>.then_quiet (u := commitFull _) rfl |>.then_cleanList _ |>.then_powerOffSeq

theorem then_grayBody : CommandEffect s (grayBody t) :=
  h.then_cleanList _ |>.then_grayPasses |>.then_cleanList _ |>.then_powerOffSeq

theorem then_partialBody : CommandEffect s (partialBody t) :=
  h.then_repeatPass partialRepeat bDiff |>.then_commitPartial |>.then_cleanList _ |>.then_powerOffSeq

theorem then_poweredRefresh {body : State → State} (hbody : ∀ u, CommandEffect s u → CommandEffect s (body u)) :
    CommandEffect s (poweredRefresh body t) := by
  unfold poweredRefresh
  dsimp only
  split
  · exact hbody _ h.then_powerOnSeq
  · exact h.then_powerOnSeq

theorem then_fullMonoSeq : CommandEffect s (fullMonoSeq t) := h.then_poweredRefresh fun _ hu => hu.then_fullMonoBody

theorem then_graySeq : CommandEffect s (graySeq t) := h.then_poweredRefresh fun _ hu => hu.then_grayBody

theorem then_partialSeq : CommandEffect s (partialSeq t) := h.then_poweredRefresh fun _ hu => hu.then_partialBody

theorem then_displayCmd : CommandEffect s (displayCmd t) := by
  unfold displayCmd
  split
  · exact h.then_fullMonoSeq
  · exact h.then_graySeq

theorem then_partialCmd : CommandEffect s (partialCmd t) := by
  unfold partialCmd
  split
  · exact h
  · split
    · exact h.then_fullMonoSeq
    · exact h.then_partialSeq

end Primitives

end CommandEffect

/-- The effect on the state that an outcome answers. -/
theorem CommandEffect.of_next {s t u : State} (h : CommandEffect s u)
    (hu : (.next u : Host.Outcome State Fault Refusal) = .next t) : CommandEffect s t :=
  Host.Outcome.next.inj hu ▸ h

/-- Every command keeps the parameters, the host's actions and the sticky errors, and accounts in the trace for what it
does to the outputs. -/
theorem commandEffect_exec {i : Instr} {s t : State} (h : exec i s = .next t) : CommandEffect s t :=
  have r := CommandEffect.refl s
  match i with
  | .nop => r.of_next h
  | .setpix _ _ _ => r.then_quiet (quietFrame_execSetpix h)
  | .clear => (r.then_quiet (quietFrame_clearCmd s)).of_next h
  | .setmode m => (r.then_quiet (quietFrame_setmodeCmd m s)).of_next h
  | .setrot r' => (r.then_quiet (u := { s with rot := r' }) rfl).of_next h
  | .display => r.then_displayCmd.of_next h
  | .partialRefresh => r.then_partialCmd.of_next h
  | .pwron => r.then_powerOnSeq.of_next h
  | .pwroff => r.then_powerOffSeq.of_next h
  | .vstart => r.then_vstartCmd.of_next h
  | .hstart d => (r.then_hstartCmd d).of_next h
  | .hdata d => (r.then_hdataCmd d).of_next h
  | .vend => r.then_vendCmd.of_next h
  | .pinmode c p mode => (r.then_pinmodeCmd c p mode).of_next h
  | .pinwrite c p l => (r.then_pinwriteCmd c p l).of_next h
  | .pinread c p => (r.then_pinreadCmd c p).of_next h
  | .reserved _ => (r.then_recordError .reservedOpcode).of_next h

/-- Settles O58: the events each part of a command appends replay its outputs, and replays compose. -/
theorem traceAccountsForEveryOutput : Obligations.TraceAccountsForEveryOutput := by
  unfold Obligations.TraceAccountsForEveryOutput
  intro i s t h
  exact (commandEffect_exec h).replays

/-! ### What a step takes and keeps -/

theorem endCommand_next {o : Host.Outcome State Fault Refusal} {t : State} (h : endCommand o = .next t) :
    ∃ u, o = .next u ∧ t = setBusy false u := by
  cases o with
  | next u => exact ⟨u, rfl, (Host.Outcome.next.inj h).symm⟩
  | fault r => cases h
  | refused r => cases h

theorem commandEffect_execute {d : Decoded} {s t : State} (h : execute d s = .next t) : CommandEffect s t := by
  cases d with
  | command i => exact commandEffect_exec h
  | rejected e => exact ((CommandEffect.refl s).then_recordError .reservedField).of_next h

/-- A CMD write is dropped while halted, answered with code 3 while busy, and otherwise a command (40 R150). -/
theorem commandEffect_onCmdWrite {v : Word} {s t : State} (h : onCmdWrite v s = .next t) : CommandEffect s t := by
  unfold onCmdWrite at h
  split at h
  · exact (CommandEffect.refl s).of_next h
  · split at h
    · exact ((CommandEffect.refl s).then_recordError .busy).of_next h
    · obtain ⟨u, hu, rfl⟩ := endCommand_next h
      have hbusy : CommandEffect s (setBusy true s) := (CommandEffect.refl s).then_quiet rfl
      exact (hbusy.trans (commandEffect_execute hu)).then_quiet rfl

theorem commandEffect_hostWrite {addr bits : Nat} {v : Word} {s t : State} (h : hostWrite addr bits v s = .next t) :
    CommandEffect s t := by
  unfold hostWrite at h
  split at h
  · exact commandEffect_onCmdWrite h
  · exact (CommandEffect.refl s).of_next h
  · exact (CommandEffect.refl s).of_next h
  · cases h

theorem commandEffect_hostRead {addr bits : Nat} {s t : State} (h : hostRead addr bits s = .next t) :
    CommandEffect s t := by
  unfold hostRead at h
  split at h
  · cases h
    exact (CommandEffect.refl s).then_quiet rfl
  · cases h

/-- Every host action but the reset input acts as a command does. -/
theorem commandEffect_hostAction {a : HostInput} {s t : State} (ha : a ≠ .reset) (h : hostAction a s = .next t) :
    CommandEffect s t := by
  cases a with
  | write addr bits v => exact commandEffect_hostWrite h
  | read addr bits => exact commandEffect_hostRead h
  | reset => exact absurd rfl ha

theorem initFrame_init_both (s : State) :
    InitFrame (resetFields s) (s |> resetFields |> expanderInit .x0 |> expanderInit .x1) :=
  (initFrame_expanderInit .x0 _).trans (initFrame_expanderInit .x1 _)

/-- RESET sets no parameter (70 R390). -/
@[simp] theorem resetSeq_cfg (s : State) : (resetSeq s).cfg = s.cfg := by
  unfold resetSeq
  rw [setBusy_cfg, initFrame_init_both s]
  rfl

/-- RESET takes no further action of the host. -/
@[simp] theorem resetSeq_hostIn (s : State) : (resetSeq s).hostIn = s.hostIn := by
  unfold resetSeq
  rw [setBusy_hostIn, initFrame_init_both s]
  rfl

/-- Settles O55: by the action the step takes, which is none, the reset input, or one that acts as a command does. -/
theorem stepKeepsParametersTraceAndStickyErrors : Obligations.StepKeepsParametersTraceAndStickyErrors := by
  unfold Obligations.StepKeepsParametersTraceAndStickyErrors
  intro s t h
  obtain ⟨-, ⟨hidle, rfl⟩ | ⟨a, rest, hin, hact⟩⟩ := step_next h
  · exact ⟨rfl, by simp [hidle], fun _ => ⟨⟨[], List.append_nil _⟩, id, id, id, id⟩⟩
  · rw [hin]
    by_cases ha : a = .reset
    · subst ha
      cases hact
      exact ⟨resetSeq_cfg _, resetSeq_hostIn _, fun hne => absurd rfl hne⟩
    · obtain ⟨hcfg, hhost, hcmd, hnopwr, hfault, hlast, new, htrace, -⟩ := commandEffect_hostAction ha hact
      exact ⟨hcfg, hhost, fun _ => ⟨⟨new, htrace.symm⟩, hcmd, hnopwr, hfault, hlast⟩⟩

/-- Settles O12: with valid parameters the step asks the host for an action and finds none, with others it refuses. -/
theorem idleBlocksStayAndBadParametersAreRefused : Obligations.IdleBlocksStayAndBadParametersAreRefused := by
  unfold Obligations.IdleBlocksStayAndBadParametersAreRefused
  intro s
  refine ⟨fun hok hidle => ?_, fun hbad => ?_⟩
  · rw [step_of_configOk hok, runHost, hidle]
  · simp [step, hbad]

end Sys2Proof.Machine

/-! ### Which fields each kind of command writes (10 R32-R49; 43 R236) -/

namespace Sys2Proof.Machine

/-- `t` is `s` but for what the power sequencer may change: what the panel drive may, and FAULT (60 R366). -/
def PanelFrame (s t : State) : Prop := DriveFrame { s with fault := t.fault } t

/-- `t` is `s` but for what a refresh may change: what the power sequencer may, and, in MONO only, the history
(45 R291, R292, R296). -/
def RefreshFrame (s t : State) : Prop :=
  PanelFrame { s with prev := t.prev, forcedFull := t.forcedFull } t ∧ (s.mode = .gray → t.prev = s.prev)

/-- What a command of a kind leaves as it was. -/
def KindFrame (k : Kind) (s t : State) : Prop :=
  match k with
  | .idle => t = s
  | .buffer => t = { s with mode := t.mode, fb1 := t.fb1, fb3 := t.fb3, prev := t.prev, forcedFull := t.forcedFull }
  | .rotation => t = { s with rot := t.rot }
  | .refresh => RefreshFrame s t
  | .power => PanelFrame s t
  | .scanStart =>
    t = { s with
      shadow0 := t.shadow0, fastOut := t.fastOut, trace := t.trace
      errNopwr := t.errNopwr, fault := t.fault, lastErr := t.lastErr }
  | .scanWord =>
    t = { s with fastOut := t.fastOut, trace := t.trace, errNopwr := t.errNopwr, lastErr := t.lastErr }
  | .pin .x0 =>
    t = { s with
      shadow0 := t.shadow0, trace := t.trace, errCmd := t.errCmd, fault := t.fault, lastErr := t.lastErr }
  | .pin .x1 => t = { s with shadow1 := t.shadow1, trace := t.trace, fault := t.fault, lastErr := t.lastErr }
  | .pinRead .x0 =>
    t = { s with
      shadow0 := t.shadow0, result := t.result, trace := t.trace, fault := t.fault, lastErr := t.lastErr
      envExp := t.envExp, draws := t.draws }
  | .pinRead .x1 =>
    t = { s with
      shadow1 := t.shadow1, result := t.result, trace := t.trace, fault := t.fault, lastErr := t.lastErr
      envExp := t.envExp, draws := t.draws }
  | .reserved => t = { s with errCmd := t.errCmd, lastErr := t.lastErr }

/-- What SETPIX and CLEAR leave as it was: the mode, the buffers of the inactive mode and the history (10 R32, R34, R38;
43 R236). -/
def HistoryFrame (s t : State) : Prop :=
  t.mode = s.mode ∧ (s.mode = .gray → t.fb1 = s.fb1 ∧ t.prev = s.prev) ∧ (s.mode = .mono → t.fb3 = s.fb3) ∧
  t.prev = s.prev ∧ t.forcedFull = s.forcedFull

/-! #### The power sequencer and the refreshes -/

theorem PanelFrame.refl (s : State) : PanelFrame s s := rfl

theorem PanelFrame.trans {s t u : State} (h : PanelFrame s t) (k : PanelFrame t u) : PanelFrame s u := by
  unfold PanelFrame DriveFrame at *
  rw [k, h]

theorem DriveFrame.panel {s t : State} (h : DriveFrame s t) : PanelFrame s t := by
  unfold PanelFrame DriveFrame at *
  rw [h]

theorem panelFrame_absent (s : State) : PanelFrame s (recordError .absent s) := rfl

theorem driveFrame_powerOnSetup (s : State) : DriveFrame s (powerOnSetup s) :=
  (driveFrame_setPwr .enabling s)
    |>.trans (scanFrame_coreOut .wakeup _).drive |>.trans (scanFrame_coreOut .pwrup _).drive
    |>.trans (scanFrame_coreOut .vcom _).drive
    |>.trans (scanFrame_coreSet .wakeup true _).drive |>.trans (scanFrame_emit _ _).drive
    |>.trans (scanFrame_coreSet .pwrup true _).drive
    |>.trans (scanFrame_emit _ _).drive
    |>.trans (scanFrame_coreOut .oe _).drive |>.trans (scanFrame_coreOut .gmod _).drive
    |>.trans (scanFrame_coreOut .spv _).drive
    |>.trans (driveFrame_fastDirOut _ _)
    |>.trans (scanFrame_fastClear _ _).drive
    |>.trans (scanFrame_fastSet _ _).drive
    |>.trans (scanFrame_coreSet .oe false _).drive |>.trans (scanFrame_coreSet .gmod true _).drive
    |>.trans (scanFrame_coreSet .spv true _).drive
    |>.trans (scanFrame_coreSet .vcom true _).drive

theorem driveFrame_powerOnFinish (s : State) : DriveFrame s (powerOnFinish s) :=
  (scanFrame_coreSet .oe true s).drive.trans rfl

/-- What POWER_ON_SEQ can do: nothing while ON, a fault without expander 0, else the steps, the poll, and either the
output enable or the abort (46 R331). -/
theorem powerOnSeq_cases (s : State) :
    (s.pwr = .on ∧ powerOnSeq s = s) ∨
    (s.pwr ≠ .on ∧ powerOnSeq s = recordError .absent s) ∨
    (s.pwr ≠ .on ∧ s.xpresent0 = true ∧ ∃ u, PollFrame (powerOnSetup s) u ∧
      (powerOnSeq s = powerOnFinish u ∨ powerOnSeq s = powerOnAbort u)) := by
  unfold powerOnSeq
  split
  · next hon => exact .inl ⟨hon, rfl⟩
  · next hoff =>
    split
    · next hx =>
      refine .inr (.inr ⟨hoff, hx, _, (pgPoll_snd (pgGood s.cfg) pgTimeoutMs _).1, ?_⟩)
      dsimp only
      split
      · exact .inl rfl
      · exact .inr rfl
    · exact .inr (.inl ⟨hoff, rfl⟩)

/-- What POWER_OFF_SEQ can do: nothing while OFF, a fault without expander 0, else the steps and the poll, whose result
is ignored (46 R334). -/
theorem powerOffSeq_cases (s : State) :
    (s.pwr = .off ∧ powerOffSeq s = s) ∨
    (s.pwr ≠ .off ∧ powerOffSeq s = recordError .absent s) ∨
    (s.pwr ≠ .off ∧ ∃ u, PollFrame (powerOffSetup s) u ∧ powerOffSeq s = setPwr .off u) := by
  unfold powerOffSeq
  split
  · next hoff => exact .inl ⟨hoff, rfl⟩
  · next hon =>
    split
    · exact .inr (.inr ⟨hon, _, (pgPoll_snd _ _ _).1, rfl⟩)
    · exact .inr (.inl ⟨hon, rfl⟩)

theorem panelFrame_powerOnSeq (s : State) : PanelFrame s (powerOnSeq s) := by
  obtain ⟨-, h⟩ | ⟨-, h⟩ | ⟨-, -, u, hu, h | h⟩ := powerOnSeq_cases s <;> rw [h]
  · exact PanelFrame.refl s
  · exact panelFrame_absent s
  · exact ((driveFrame_powerOnSetup s).trans hu.drive |>.trans (driveFrame_powerOnFinish u)).panel
  · exact ((driveFrame_powerOnSetup s).trans hu.drive |>.trans (powerOnAbort_spec u).1).panel

theorem panelFrame_powerOffSeq (s : State) : PanelFrame s (powerOffSeq s) := by
  obtain ⟨-, h⟩ | ⟨-, h⟩ | ⟨-, u, hu, h⟩ := powerOffSeq_cases s <;> rw [h]
  · exact PanelFrame.refl s
  · exact panelFrame_absent s
  · exact ((powerOffSetup_spec s).1.trans hu.drive |>.trans (driveFrame_setPwr .off u)).panel

theorem PanelFrame.mode_eq {s t : State} (h : PanelFrame s t) : t.mode = s.mode := by
  rw [show t = _ from h]

theorem ScanFrame.mode_eq {s t : State} (h : ScanFrame s t) : t.mode = s.mode := by rw [h]

/-- The commit of a partial refresh writes PREV only (45 R296). -/
theorem commitPartial_frame (s : State) : ∃ p, commitPartial s = { s with prev := p } := by
  refine forUpTo_keeps (P := fun t => ∃ p, t = { s with prev := p }) _ (fun i t _ ht => ?_) ⟨s.prev, rfl⟩
  obtain ⟨p, rfl⟩ := ht
  exact ⟨_, rfl⟩

@[simp] theorem commitPartial_pwr (s : State) : (commitPartial s).pwr = s.pwr := by
  obtain ⟨p, h⟩ := commitPartial_frame s
  rw [h]

@[simp] theorem commitPartial_mode (s : State) : (commitPartial s).mode = s.mode := by
  obtain ⟨p, h⟩ := commitPartial_frame s
  rw [h]

/-- The body of a refresh runs only if the power-on reached ON (46 R339). -/
theorem poweredRefresh_keeps {P : State → Prop} {body : State → State} {s : State} (h : P (powerOnSeq s))
    (hbody : ∀ t, P t ∧ t.pwr = .on ∧ t.mode = s.mode → P (body t)) : P (poweredRefresh body s) := by
  unfold poweredRefresh
  dsimp only
  split
  · next hon => exact hbody _ ⟨h, hon, (panelFrame_powerOnSeq s).mode_eq⟩
  · exact h

/-- What a property must be kept by to be kept by a refresh that is ON: the passes, the commits of MONO, and the
power-off (45 R291, R292, R296). -/
structure KeptByRefresh (P : State → Prop) : Prop where
  pass : ∀ b s, s.pwr = .on → P s → P (pass b s)
  commitFull : ∀ s, s.mode = .mono → P s → P (commitFull s)
  commitPartial : ∀ s, s.mode = .mono → P s → P (commitPartial s)
  powerOff : ∀ s, P s → P (powerOffSeq s)

namespace KeptByRefresh

variable {P : State → Prop} (k : KeptByRefresh P)
include k

/-- A pass keeps the property, and with it that the block is ON and in its mode. -/
theorem passesKeep {m : Mode} (b : WordSource) (s : State) (h : P s ∧ s.pwr = .on ∧ s.mode = m) :
    P (Machine.pass b s) ∧ (Machine.pass b s).pwr = .on ∧ (Machine.pass b s).mode = m := by
  obtain ⟨hp, hon, hm⟩ := h
  have hf := scanFrame_pass b s
  exact ⟨k.pass b s hon hp, hf.pwr_eq.trans hon, hf.mode_eq.trans hm⟩

theorem repeatPass {m : Mode} (n : Nat) (b : State → WordSource) {s : State} (h : P s ∧ s.pwr = .on ∧ s.mode = m) :
    P (repeatPass n b s) ∧ (repeatPass n b s).pwr = .on ∧ (repeatPass n b s).mode = m :=
  forUpTo_keeps (P := fun t => P t ∧ t.pwr = .on ∧ t.mode = m) n (fun _ t _ ht => k.passesKeep (b t) t ht) h

theorem cleanList {m : Mode} (l : List (BitVec 2 × Nat)) {s : State} (h : P s ∧ s.pwr = .on ∧ s.mode = m) :
    P (cleanList l s) ∧ (cleanList l s).pwr = .on ∧ (cleanList l s).mode = m :=
  foldl_keeps (P := fun t => P t ∧ t.pwr = .on ∧ t.mode = m) l (fun _ e _ ht => k.repeatPass e.2 (bClean e.1) ht) h

theorem grayPasses {m : Mode} {s : State} (h : P s ∧ s.pwr = .on ∧ s.mode = m) :
    P (grayPasses s) ∧ (grayPasses s).pwr = .on ∧ (grayPasses s).mode = m :=
  foldl_keeps (P := fun t => P t ∧ t.pwr = .on ∧ t.mode = m) phases (fun t p _ ht => k.passesKeep (bGray p t) t ht) h

theorem fullMonoBody {s : State} (h : P s ∧ s.pwr = .on ∧ s.mode = .mono) : P (fullMonoBody s) := by
  obtain ⟨hp, hon, hm⟩ := k.repeatPass fullRevRepeat bRev <| k.repeatPass fullFwdRepeat bFwd <|
    k.cleanList s.cfg.fullPreamble h
  exact k.powerOff _ (k.cleanList _ (s := Machine.commitFull _) ⟨k.commitFull _ hm hp, hon, hm⟩).1

theorem grayBody {m : Mode} {s : State} (h : P s ∧ s.pwr = .on ∧ s.mode = m) : P (grayBody s) :=
  k.powerOff _ (k.cleanList _ (k.grayPasses (k.cleanList s.cfg.fullPreamble h))).1

theorem partialBody {s : State} (h : P s ∧ s.pwr = .on ∧ s.mode = .mono) : P (partialBody s) := by
  obtain ⟨hp, hon, hm⟩ := k.repeatPass partialRepeat bDiff h
  exact k.powerOff _ (k.cleanList _ ⟨k.commitPartial _ hm hp, by simpa using hon, by simpa using hm⟩).1

/-- DISPLAY keeps what its power-on and the parts of a refresh keep. -/
theorem displayCmd {s : State} (h : P (powerOnSeq s)) : P (displayCmd s) := by
  unfold Machine.displayCmd
  split
  · next hm => exact poweredRefresh_keeps h fun _ ht => k.fullMonoBody (hm ▸ ht)
  · exact poweredRefresh_keeps h fun _ ht => k.grayBody ht

/-- So does PARTIAL, which does nothing in GRAY. -/
theorem partialCmd {s : State} (hs : P s) (h : P (powerOnSeq s)) : P (partialCmd s) := by
  unfold Machine.partialCmd
  split
  · exact hs
  · next hm =>
    split
    · exact poweredRefresh_keeps h fun _ ht => k.fullMonoBody (hm ▸ ht)
    · exact poweredRefresh_keeps h fun _ ht => k.partialBody (hm ▸ ht)

end KeptByRefresh

theorem PanelFrame.refresh {s t : State} (h : PanelFrame s t) : RefreshFrame s t := by
  unfold RefreshFrame PanelFrame DriveFrame at *
  constructor
  · rw [h]
  · intro _; rw [h]

theorem RefreshFrame.then_panel {s t u : State} (h : RefreshFrame s t) (k : PanelFrame t u) : RefreshFrame s u := by
  obtain ⟨h, hgray⟩ := h
  unfold RefreshFrame PanelFrame DriveFrame at *
  constructor
  · rw [k, h]
  · intro hm
    rw [k]
    exact hgray hm

theorem RefreshFrame.mode_eq {s t : State} (h : RefreshFrame s t) : t.mode = s.mode := h.1.mode_eq

/-- In MONO a refresh may write the history. -/
theorem RefreshFrame.then_commit {s t u : State} (h : RefreshFrame s t) (hm : t.mode = .mono)
    (hu : u = { t with prev := u.prev, forcedFull := u.forcedFull }) : RefreshFrame s u := by
  refine ⟨?_, fun hgray => absurd (h.mode_eq.symm.trans hm) (by simp [hgray])⟩
  have h1 := h.1
  unfold PanelFrame DriveFrame at *
  rw [hu, h1]

theorem refreshFrame_kept (s : State) : KeptByRefresh (RefreshFrame s) where
  pass b t _ ht := ht.then_panel (scanFrame_pass b t).drive.panel
  commitFull _ hm ht := ht.then_commit hm rfl
  commitPartial t hm ht := by
    obtain ⟨p, hp⟩ := commitPartial_frame t
    rw [hp]
    exact ht.then_commit hm rfl
  powerOff t ht := ht.then_panel (panelFrame_powerOffSeq t)

theorem refreshFrame_displayCmd (s : State) : RefreshFrame s (displayCmd s) :=
  (refreshFrame_kept s).displayCmd (panelFrame_powerOnSeq s).refresh

theorem refreshFrame_partialCmd (s : State) : RefreshFrame s (partialCmd s) :=
  (refreshFrame_kept s).partialCmd (PanelFrame.refl s).refresh (panelFrame_powerOnSeq s).refresh

/-! #### The buffer commands (43 R231-R234) -/

/-- A pixel writes the active buffer only (43 R231). -/
theorem activeBuffer_execSetpix {x y : Int} {v : BitVec 3} {s t : State} (h : execSetpix x y v s = .next t) :
    t = s ∨ (s.mode = .mono ∧ ∃ i b, i < fb1Size s.cfg ∧ t = { s with fb1 := Memory.write monoBlank s.fb1 i b }) ∨
      (s.mode = .gray ∧ ∃ i px, i < fb3Size s.cfg ∧
        t = { s with fb3 := Memory.write (grayBlank s.cfg) s.fb3 i (putGrayPixel (fb3Read s i) px v) }) := by
  unfold execSetpix at h
  split at h
  · dsimp only at h
    split at h
    · next hm =>
      unfold fb1Write at h
      split at h
      · next hi => exact .inr (.inl ⟨hm, _, _, hi, (Host.Outcome.next.inj h).symm⟩)
      · cases h
    · next hm =>
      unfold fb3Write at h
      split at h
      · next hi => exact .inr (.inr ⟨hm, _, _, hi, (Host.Outcome.next.inj h).symm⟩)
      · cases h
  · exact .inl (Host.Outcome.next.inj h).symm

theorem kindFrame_execSetpix {x y : Int} {v : BitVec 3} {s t : State} (h : execSetpix x y v s = .next t) :
    KindFrame .buffer s t := by
  obtain rfl | ⟨-, _, _, -, rfl⟩ | ⟨-, _, _, -, rfl⟩ := activeBuffer_execSetpix h <;> rfl

theorem historyFrame_execSetpix {x y : Int} {v : BitVec 3} {s t : State} (h : execSetpix x y v s = .next t) :
    HistoryFrame s t := by
  obtain rfl | ⟨hm, _, _, -, rfl⟩ | ⟨hm, _, _, -, rfl⟩ := activeBuffer_execSetpix h <;> simp_all [HistoryFrame]

theorem kindFrame_clearCmd (s : State) : KindFrame .buffer s (clearCmd s) := by
  unfold clearCmd
  split <;> rfl

/-- CLEAR blanks the active buffer only (43 R232). -/
theorem historyFrame_clearCmd (s : State) : HistoryFrame s (clearCmd s) := by
  unfold clearCmd
  split <;> simp_all [HistoryFrame]

theorem kindFrame_setmodeCmd (m : Mode) (s : State) : KindFrame .buffer s (setmodeCmd m s) := by
  unfold setmodeCmd
  split <;> rfl

/-! #### The scan commands (44 R264-R267) -/

theorem kindFrame_vstartCmd (s : State) : KindFrame .scanStart s (vstartCmd s) := by
  unfold vstartCmd
  split
  · split
    · have h := scanFrame_vscanStartSeq s
      unfold ScanFrame at h
      simp only [KindFrame]
      rw [h]
    · rfl
  · rfl

/-- `t` is `s` but for the fast port's levels and the trace: what a word of a scan line may change (44 R261-R263). -/
def WordFrame (s t : State) : Prop := t = { s with fastOut := t.fastOut, trace := t.trace }

theorem WordFrame.trans {s t u : State} (h : WordFrame s t) (k : WordFrame t u) : WordFrame s u := by
  unfold WordFrame at *
  rw [k, h]

theorem wordFrame_fastSet (m : Word) (s : State) : WordFrame s (fastSet m s) := rfl

theorem wordFrame_fastClear (m : Word) (s : State) : WordFrame s (fastClear m s) := rfl

theorem wordFrame_columnWrite (d : Byte) (s : State) : WordFrame s (columnWrite d s) :=
  (wordFrame_fastSet _ s).trans (wordFrame_fastClear _ _)

theorem wordFrame_hscanStartSeq (d : Byte) (s : State) : WordFrame s (hscanStartSeq d s) :=
  (wordFrame_fastClear _ s) |>.trans (wordFrame_fastSet _ _) |>.trans (wordFrame_fastClear _ _)
    |>.trans (wordFrame_fastSet _ _) |>.trans (wordFrame_fastSet _ _)

theorem wordFrame_vscanEndSeq (s : State) : WordFrame s (vscanEndSeq s) :=
  (wordFrame_fastClear _ s) |>.trans (wordFrame_fastSet _ _) |>.trans (wordFrame_fastClear _ _)

theorem WordFrame.kind {s t : State} (h : WordFrame s t) : KindFrame .scanWord s t := by
  unfold WordFrame at h
  simp only [KindFrame]
  rw [h]

theorem kindFrame_hstartCmd (d : Byte) (s : State) : KindFrame .scanWord s (hstartCmd d s) := by
  unfold hstartCmd
  split
  · exact (wordFrame_hscanStartSeq d s).kind
  · rfl

theorem kindFrame_hdataCmd (d : Byte) (s : State) : KindFrame .scanWord s (hdataCmd d s) := by
  unfold hdataCmd
  split
  · exact (wordFrame_columnWrite d s).kind
  · rfl

theorem kindFrame_vendCmd (s : State) : KindFrame .scanWord s (vendCmd s) := by
  unfold vendCmd
  split
  · exact (wordFrame_vscanEndSeq s).kind
  · rfl

/-! #### The pin commands (41 R172-R174) -/

theorem PinFrame.kind {c : Chip} {s t : State} (h : PinFrame c s t) : KindFrame (.pin c) s t := by
  cases c <;> (simp only [PinFrame, KindFrame] at *; rw [h])

theorem kindFrame_pin_absent (c : Chip) (s : State) : KindFrame (.pin c) s (recordError .absent s) := by
  cases c <;> rfl

/-- Only expander 0 has core pins (41 R172, R173). -/
theorem kindFrame_pin_corePin {c : Chip} {p : Pin} {s : State} (h : namesCorePin s.cfg c p = true) :
    KindFrame (.pin c) s (recordError .corePin s) := by
  cases c with
  | x0 => rfl
  | x1 => simp [namesCorePin] at h

theorem kindFrame_pinmodeCmd (c : Chip) (p : Pin) (mode : PinMode) (s : State) :
    KindFrame (.pin c) s (pinmodeCmd c p mode s) := by
  unfold pinmodeCmd
  split
  · next hcore => exact kindFrame_pin_corePin hcore
  · split
    · exact (pinFrame_pinModeSet c p mode s).kind
    · exact kindFrame_pin_absent c s

theorem kindFrame_pinwriteCmd (c : Chip) (p : Pin) (l : Bool) (s : State) :
    KindFrame (.pin c) s (pinwriteCmd c p l s) := by
  unfold pinwriteCmd
  split
  · next hcore => exact kindFrame_pin_corePin hcore
  · split
    · exact (pinFrame_pinOutSet c p l s).kind
    · exact kindFrame_pin_absent c s

theorem kindFrame_pinreadCmd (c : Chip) (p : Pin) (s : State) : KindFrame (.pinRead c) s (pinreadCmd c p s) := by
  unfold pinreadCmd
  split
  · obtain ⟨e, d, h⟩ := drawExp_frame s
    simp only [expRead, h]
    cases c <;> rfl
  · cases c <;> rfl

/-! #### Every command -/

theorem KindFrame.of_next {k : Kind} {s t u : State} (h : KindFrame k s u)
    (hu : (.next u : Host.Outcome State Fault Refusal) = .next t) : KindFrame k s t := Host.Outcome.next.inj hu ▸ h

/-- A command changes no more than its kind may. -/
theorem kindFrame_exec {i : Instr} {s t : State} (h : exec i s = .next t) : KindFrame (kindOf i) s t :=
  match i with
  | .nop => (show KindFrame .idle s s from rfl).of_next h
  | .setpix _ _ _ => kindFrame_execSetpix h
  | .clear => (kindFrame_clearCmd s).of_next h
  | .setmode m => (kindFrame_setmodeCmd m s).of_next h
  | .setrot r => (show KindFrame .rotation s { s with rot := r } from rfl).of_next h
  | .display => KindFrame.of_next (k := .refresh) (refreshFrame_displayCmd s) h
  | .partialRefresh => KindFrame.of_next (k := .refresh) (refreshFrame_partialCmd s) h
  | .pwron => KindFrame.of_next (k := .power) (panelFrame_powerOnSeq s) h
  | .pwroff => KindFrame.of_next (k := .power) (panelFrame_powerOffSeq s) h
  | .vstart => (kindFrame_vstartCmd s).of_next h
  | .hstart d => (kindFrame_hstartCmd d s).of_next h
  | .hdata d => (kindFrame_hdataCmd d s).of_next h
  | .vend => (kindFrame_vendCmd s).of_next h
  | .pinmode c p mode => (kindFrame_pinmodeCmd c p mode s).of_next h
  | .pinwrite c p l => (kindFrame_pinwriteCmd c p l s).of_next h
  | .pinread c p => (kindFrame_pinreadCmd c p s).of_next h
  | .reserved _ => (show KindFrame .reserved s (recordError .reservedOpcode s) from rfl).of_next h

/-- A buffer command but SETMODE writes the active buffer only (43 R236). -/
theorem historyFrame_exec {i : Instr} {s t : State} (h : exec i s = .next t) (hk : kindOf i = .buffer)
    (hm : ∀ m, i ≠ .setmode m) : HistoryFrame s t := by
  cases i with
  | setpix x y v => exact historyFrame_execSetpix h
  | clear => exact Host.Outcome.next.inj h ▸ historyFrame_clearCmd s
  | setmode m => exact absurd rfl (hm m)
  | _ => cases hk

/-- Settles O56: each clause is read off what the command's kind may change. -/
theorem onlyTheNamedCommandsWrite : Obligations.OnlyTheNamedCommandsWrite := by
  unfold Obligations.OnlyTheNamedCommandsWrite
  intro i s t h
  have hkind := kindFrame_exec h
  have hhist := historyFrame_exec h
  unfold HistoryFrame at hhist
  generalize kindOf i = k at hkind hhist
  match k with
  | .buffer =>
    simp only [KindFrame] at hkind
    rw [hkind] at hhist ⊢
    simpa using hhist rfl
  | .refresh =>
    obtain ⟨hf, hgray⟩ := hkind
    rw [show t = _ from hf]
    simpa using fun _ => hgray
  | .power =>
    rw [show t = _ from hkind]
    simp
  | .idle | .rotation | .scanStart | .scanWord | .pin .x0 | .pin .x1 | .pinRead .x0 | .pinRead .x1 | .reserved =>
    simp only [KindFrame] at hkind
    rw [hkind]
    simp

end Sys2Proof.Machine

/-! ### The host's registers (10 R45-R48; 40 R153) -/

namespace Sys2Proof.Machine

theorem bitAt_getElem (n k : Nat) (b : Bool) (hk : k < 32) : (bitAt n b)[k] = (decide (k = n) && b) := by
  unfold bitAt
  simp only [BitVec.getElem_shiftLeft, BitVec.zeroExtend]
  grind

theorem modeBit_eq (m : Mode) : modeBit m = decide (m = .gray) := by cases m <;> rfl

/-- A field of bits, read bit by bit. -/
theorem extractLsb'_eq_of_getLsbD {w : Word} {lo n : Nat} {v : BitVec n}
    (h : ∀ i, i < n → w.getLsbD (lo + i) = v.getLsbD i) : w.extractLsb' lo n = v := by
  apply BitVec.eq_of_getLsbD_eq
  intro i hi
  rw [BitVec.getLsbD_extractLsb', h i hi]
  simp [hi]

/-- The bits of STATUS: each field gives those at its place (10 R48). -/
theorem status_getLsbD (s : State) (k : Nat) (hk : k < 32) :
    (status s).getLsbD k =
      (!decide (k < 12) && s.lastErr.getLsbD (k - 12) || decide (k = 11) && s.fault || decide (k = 10) && s.busy ||
       decide (k = 9) && s.errNopwr || decide (k = 8) && s.errCmd || decide (k = 7) && s.pwrFail ||
       decide (k = 6) && s.xpresent1 || decide (k = 5) && s.xpresent0 || decide (k = 4) && s.forcedFull ||
       !decide (k < 2) && s.rot.getLsbD (k - 2) || decide (k = 1) && decide (s.mode = .gray) ||
       decide (k = 0) && decide (s.pwr = .on)) := by
  rw [BitVec.getLsbD_eq_getElem hk]
  simp [status, bitAt_getElem, modeBit_eq]

/-- Settles O9: each bit of STATUS belongs to one field. -/
theorem statusFieldPositions : Obligations.StatusFieldPositions := by
  unfold Obligations.StatusFieldPositions
  intro s
  have hbit := status_getLsbD s
  refine ⟨?_, ?_, extractLsb'_eq_of_getLsbD fun i hi => ?_, ?_, ?_, ?_, ?_, ?_, ?_, ?_, ?_,
    extractLsb'_eq_of_getLsbD fun i hi => ?_, extractLsb'_eq_of_getLsbD fun i hi => ?_⟩
  case refine_3 | refine_12 | refine_13 =>
    rw [hbit _ (by omega)]
    interval_cases i <;> simp
  all_goals
    rw [hbit _ (by decide)]
    simp

/-- Settles O10: the address selects the register, and neither a read nor an ignored write does more. -/
theorem hostRegisterAccesses : Obligations.HostRegisterAccesses := by
  unfold Obligations.HostRegisterAccesses
  intro s v rest hok
  have hwrite : ∀ addr reg, hostReg s.cfg addr 32 = some reg → reg ≠ .cmd →
      hostWrite addr 32 v { s with hostIn := rest } = .next { s with hostIn := rest } := by
    intro addr reg hreg hne
    simp only [hostWrite, hreg]
    cases reg with
    | cmd => exact absurd rfl hne
    | status => rfl
    | result => rfl
  have hread : ∀ addr reg, hostReg s.cfg addr 32 = some reg →
      hostRead addr 32 { s with hostIn := rest } =
        .next { s with hostIn := rest, readData := hostReadValue reg { s with hostIn := rest } } := by
    intro addr reg hreg
    simp only [hostRead, hreg]
  refine ⟨fun h => ?_, fun h => ?_, fun h => ?_, fun h => ?_, fun h => ?_⟩ <;> rw [step_cons hok h]
  · exact hread _ _ (hostReg_status s.cfg)
  · exact hread _ _ (hostReg_result s.cfg)
  · exact hread _ _ (hostReg_cmd s.cfg)
  · exact hwrite _ _ (hostReg_status s.cfg) nofun
  · exact hwrite _ _ (hostReg_result s.cfg) nofun

end Sys2Proof.Machine

/-! ### What a step can do (40 R150-R153) -/

namespace Sys2Proof.Machine

/-- What a step that answers a next state does: it leaves the block but for the action taken and the word a read
returned, it drops a CMD write while busy, it runs a command while neither halted nor busy, or it resets. -/
inductive StepEffect (s : State) : State → Prop where
  | quiet (rest : List HostInput) (data : Word) : StepEffect s { s with hostIn := rest, readData := data }
  | dropped (rest : List HostInput) (hfault : s.fault = false) (hbusy : s.busy = true) :
    StepEffect s (recordError .busy { s with hostIn := rest })
  | command (rest : List HostInput) (d : Decoded) (u : State) (hfault : s.fault = false) (hbusy : s.busy = false)
    (hu : execute d { s with hostIn := rest, busy := true } = .next u) : StepEffect s (setBusy false u)
  | reset (rest : List HostInput) : StepEffect s (resetSeq { s with hostIn := rest })

theorem stepEffect_onCmdWrite {v : Word} {s t : State} {rest : List HostInput}
    (h : onCmdWrite v { s with hostIn := rest } = .next t) : StepEffect s t := by
  unfold onCmdWrite at h
  split at h
  · cases h
    exact .quiet rest s.readData
  · next hfault =>
    split at h
    · next hbusy =>
      cases h
      exact .dropped rest (by simpa using hfault) hbusy
    · next hbusy =>
      obtain ⟨u, hu, rfl⟩ := endCommand_next h
      exact .command rest (decode v) u (by simpa using hfault) (by simpa using hbusy) hu

theorem stepEffect_hostAction {a : HostInput} {s t : State} {rest : List HostInput}
    (h : hostAction a { s with hostIn := rest } = .next t) : StepEffect s t := by
  cases a with
  | write addr bits v =>
    simp only [hostAction, hostWrite] at h
    split at h
    · exact stepEffect_onCmdWrite h
    · cases h
      exact .quiet rest s.readData
    · cases h
      exact .quiet rest s.readData
    · cases h
  | read addr bits =>
    simp only [hostAction, hostRead] at h
    split at h
    · cases h
      exact .quiet rest _
    · cases h
  | reset =>
    cases h
    exact .reset rest

theorem stepEffect_step {s t : State} (h : step s = .next t) : configOk s.cfg = true ∧ StepEffect s t := by
  obtain ⟨hok, ⟨-, rfl⟩ | ⟨a, rest, -, hact⟩⟩ := step_next h
  · exact ⟨hok, .quiet t.hostIn t.readData⟩
  · exact ⟨hok, stepEffect_hostAction hact⟩

/-- The error of a rejected word is the only thing `execute` does beside the commands (30 R122; 40 R151). -/
theorem execute_next {d : Decoded} {s t : State} (h : execute d s = .next t) :
    (∃ i, exec i s = .next t) ∨ t = recordError .reservedField s := by
  cases d with
  | command i => exact .inl ⟨i, h⟩
  | rejected e => exact .inr (Host.Outcome.next.inj h).symm

/-- RESET blanks what it blanks, whatever the environment answers to the expander initialisation (70 R390). -/
theorem initFrame_resetSeq (s : State) : InitFrame { resetFields s with busy := false } (resetSeq s) := by
  have h := initFrame_init_both s
  unfold resetSeq
  unfold InitFrame at *
  rw [h]
  rfl

/-! ### The buffers (10 R36-R39; 20 R82; 43 R237) -/

/-- The buffer invariant speaks of the parameters, the mode and the buffers only. -/
theorem BufferInv.congr {s t : State} (h : BufferInv s) (hcfg : t.cfg = s.cfg) (hmode : t.mode = s.mode)
    (hfb1 : t.fb1 = s.fb1) (hfb3 : t.fb3 = s.fb3) (hprev : t.prev = s.prev) : BufferInv t := by
  unfold BufferInv fb3Read at *
  rw [hcfg, hmode, hfb1, hfb3, hprev]
  exact h

theorem BufferInv.fb3_nibbles {s : State} (h : BufferInv s) (i : Nat) : fb3Read s i &&& 0x88 = 0 := by
  obtain ⟨-, -, -, -, -, -, -, -, hnib⟩ := h
  exact hnib i

/-- The gray blank byte holds two levels, so bit 3 of its nibbles is 0 (10 R37). -/
theorem grayBlank_nibbles (c : Config) : grayBlank c &&& 0x88 = 0 := by
  unfold grayBlank
  generalize c.grayWhite = w
  revert w
  decide

/-- Blank buffers meet the invariant in either mode. -/
theorem BufferInv.of_blank {s : State} (hfb1 : s.fb1 = []) (hfb3 : s.fb3 = []) (hprev : s.prev = []) : BufferInv s := by
  unfold BufferInv fb3Read
  rw [hfb1, hfb3, hprev]
  exact ⟨rfl, rfl, rfl, rfl, rfl, rfl, fun _ => ⟨rfl, rfl⟩, fun _ => rfl, fun _ => grayBlank_nibbles s.cfg⟩

/-- A level put into a byte keeps bit 3 of both nibbles 0 (20 R82). -/
theorem putGrayPixel_nibbles {old : Byte} (h : old &&& 0x88 = 0) (px : Nat) (v : BitVec 3) :
    putGrayPixel old px v &&& 0x88 = 0 := by
  unfold putGrayPixel
  split <;> (revert h; revert old v; decide)

/-- In MONO, a byte of FB1 may take any value. -/
theorem BufferInv.write_fb1 {s : State} (h : BufferInv s) (hm : s.mode = .mono) {i : Nat} (hi : i < fb1Size s.cfg)
    (b : Byte) : BufferInv { s with fb1 := Memory.write monoBlank s.fb1 i b } := by
  obtain ⟨wf1, wfp, wf3, in1, inp, in3, -, hmono, hnib⟩ := h
  exact ⟨write_wf i b wf1, wfp, wf3, write_within b hi in1, inp, in3, fun hg => absurd (hm.symm.trans hg) nofun,
    hmono, hnib⟩

/-- In GRAY, a byte of FB3 may take any value whose nibbles are levels. -/
theorem BufferInv.write_fb3 {s : State} (h : BufferInv s) (hm : s.mode = .gray) {i : Nat} (hi : i < fb3Size s.cfg)
    {b : Byte} (hb : b &&& 0x88 = 0) : BufferInv { s with fb3 := Memory.write (grayBlank s.cfg) s.fb3 i b } := by
  obtain ⟨wf1, wfp, wf3, in1, inp, in3, hgray, -, hnib⟩ := h
  refine ⟨wf1, wfp, write_wf i b wf3, in1, inp, write_within b hi in3, hgray,
    fun hmono => absurd (hm.symm.trans hmono) nofun, fun j => ?_⟩
  show Memory.read (grayBlank s.cfg) (Memory.write (grayBlank s.cfg) s.fb3 i b) j &&& 0x88 = 0
  rw [read_write i j b wf3]
  split
  · exact hb
  · exact hnib j

/-- In MONO, a byte of PREV may take any value. -/
theorem BufferInv.prevPut {s : State} (h : BufferInv s) (hm : s.mode = .mono) {i : Nat} (hi : i < fb1Size s.cfg)
    (b : Byte) : BufferInv (prevPut i b s) := by
  obtain ⟨wf1, wfp, wf3, in1, inp, in3, -, hmono, hnib⟩ := h
  exact ⟨wf1, write_wf i b wfp, wf3, in1, write_within b hi inp, in3, fun hg => absurd (hm.symm.trans hg) nofun,
    hmono, hnib⟩

theorem BufferInv.commitFull {s : State} (h : BufferInv s) : BufferInv (commitFull s) := by
  obtain ⟨wf1, -, wf3, in1, -, in3, hgray, hmono, hnib⟩ := h
  exact ⟨wf1, wf1, wf3, in1, in1, in3, fun hg => ⟨(hgray hg).1, (hgray hg).1⟩, hmono, hnib⟩

theorem BufferInv.commitPartial {s : State} (h : BufferInv s) (hm : s.mode = .mono) : BufferInv (commitPartial s) := by
  refine (forUpTo_keeps (P := fun t => BufferInv t ∧ t.mode = .mono ∧ t.cfg = s.cfg) _ (fun i t hi ht => ?_)
    ⟨h, hm, rfl⟩).1
  obtain ⟨hinv, hmode, hcfg⟩ := ht
  exact ⟨hinv.prevPut hmode (hcfg ▸ hi) _, hmode, hcfg⟩

theorem BufferInv.of_panel {s t : State} (h : BufferInv s) (k : PanelFrame s t) : BufferInv t := by
  rw [show t = _ from k]
  exact h.congr rfl rfl rfl rfl rfl

theorem bufferInv_keptByRefresh : KeptByRefresh BufferInv where
  pass b s _ hs := hs.of_panel (scanFrame_pass b s).drive.panel
  commitFull _ _ hs := hs.commitFull
  commitPartial _ hm hs := hs.commitPartial hm
  powerOff s hs := hs.of_panel (panelFrame_powerOffSeq s)

theorem BufferInv.execSetpix {x y : Int} {v : BitVec 3} {s t : State} (h : BufferInv s)
    (ht : execSetpix x y v s = .next t) : BufferInv t := by
  obtain rfl | ⟨hm, i, b, hi, rfl⟩ | ⟨hm, i, px, hi, rfl⟩ := activeBuffer_execSetpix ht
  · exact h
  · exact h.write_fb1 hm hi b
  · exact h.write_fb3 hm hi (putGrayPixel_nibbles (h.fb3_nibbles i) px v)

theorem BufferInv.clearCmd {s : State} (h : BufferInv s) : BufferInv (clearCmd s) := by
  obtain ⟨wf1, wfp, wf3, in1, inp, in3, hgray, hmono, hnib⟩ := h
  unfold Machine.clearCmd
  split
  · exact ⟨rfl, wfp, wf3, rfl, inp, in3, fun hg => ⟨rfl, (hgray hg).2⟩, hmono, hnib⟩
  · exact ⟨wf1, wfp, rfl, in1, inp, rfl, hgray, fun _ => rfl, fun _ => grayBlank_nibbles s.cfg⟩

theorem BufferInv.setmodeCmd {s : State} (h : BufferInv s) (m : Mode) : BufferInv (setmodeCmd m s) := by
  unfold Machine.setmodeCmd
  split
  · exact h
  · exact .of_blank rfl rfl rfl

/-- Commands other than the buffer commands and the refreshes write no buffer. -/
theorem BufferInv.of_kind {i : Instr} {s t : State} (h : BufferInv s) (ht : exec i s = .next t)
    (hb : kindOf i ≠ .buffer) (hr : kindOf i ≠ .refresh) : BufferInv t := by
  have hm : ∀ m, i ≠ .setmode m := fun m hi => hb (by rw [hi]; rfl)
  obtain ⟨⟨hcfg, -⟩, -, -, -, -, -, -, -, -, -, -, -, hfb, hhist⟩ := onlyTheNamedCommandsWrite i s t ht
  obtain ⟨hmode, -, -, hprev⟩ := hhist hm
  exact h.congr hcfg hmode (hfb hb).1 (hfb hb).2 (hprev hr).1

theorem bufferInv_exec {i : Instr} {s t : State} (h : BufferInv s) (ht : exec i s = .next t) : BufferInv t := by
  have hon : BufferInv (powerOnSeq s) := h.of_panel (panelFrame_powerOnSeq s)
  cases i with
  | setpix x y v => exact h.execSetpix ht
  | clear => exact Host.Outcome.next.inj ht ▸ h.clearCmd
  | setmode m => exact Host.Outcome.next.inj ht ▸ h.setmodeCmd m
  | display => exact Host.Outcome.next.inj ht ▸ bufferInv_keptByRefresh.displayCmd hon
  | partialRefresh => exact Host.Outcome.next.inj ht ▸ bufferInv_keptByRefresh.partialCmd h hon
  | _ => exact h.of_kind ht nofun nofun

/-- Settles O52: the commands that write a buffer write the active one, inside its size and with levels for nibbles; the
commit copies FB1 in MONO; reset and SETMODE blank everything. -/
theorem stepKeepsBufferInv : Obligations.StepKeepsBufferInv := by
  unfold Obligations.StepKeepsBufferInv
  intro s t h hstep
  obtain ⟨-, heffect⟩ := stepEffect_step hstep
  cases heffect with
  | quiet rest data => exact h.congr rfl rfl rfl rfl rfl
  | dropped rest => exact h.congr rfl rfl rfl rfl rfl
  | command rest d u _ _ hu =>
    have hs : BufferInv { s with hostIn := rest, busy := true } := h.congr rfl rfl rfl rfl rfl
    have hu : BufferInv u := by
      obtain ⟨i, hi⟩ | rfl := execute_next hu
      · exact bufferInv_exec hs hi
      · exact hs.congr rfl rfl rfl rfl rfl
    exact hu.congr rfl rfl rfl rfl rfl
  | reset rest =>
    rw [show resetSeq _ = _ from initFrame_resetSeq { s with hostIn := rest }]
    exact .of_blank rfl rfl rfl

end Sys2Proof.Machine

/-! ### The power invariant (46 R337) -/

namespace Sys2Proof.Machine

/-! #### Levels on the panel's lines only (70 R402) -/

/-- A fast-port word with a 1 on the panel's lines only. -/
def InPanel (c : Config) (w : Word) : Prop := w &&& ~~~(panelMask c) = 0

theorem inPanel_iff (c : Config) (w : Word) :
    InPanel c w ↔ ∀ k, k < 32 → w.getLsbD k = true → (panelMask c).getLsbD k = true := by
  unfold InPanel
  constructor
  · intro h k hk hw
    have hbit := congrArg (fun v => v.getLsbD k) h
    simpa [hk, hw] using hbit
  · intro h
    apply BitVec.eq_of_getLsbD_eq
    intro k hk
    cases hw : w.getLsbD k with
    | false => simp [hw]
    | true => simp [hk, h k hk hw]

theorem InPanel.zero (c : Config) : InPanel c 0 := by simp [InPanel]

theorem InPanel.or {c : Config} {v w : Word} (hv : InPanel c v) (hw : InPanel c w) : InPanel c (v ||| w) := by
  rw [inPanel_iff] at *
  intro k hk h
  rw [BitVec.getLsbD_or, Bool.or_eq_true] at h
  exact h.elim (hv k hk) (hw k hk)

theorem InPanel.and {c : Config} {v : Word} (hv : InPanel c v) (w : Word) : InPanel c (v &&& w) := by
  rw [inPanel_iff] at *
  intro k hk h
  rw [BitVec.getLsbD_and, Bool.and_eq_true] at h
  exact hv k hk h.1

/-- Every bit of a lane's code is a bit of the whole lane. -/
theorem laneBits_subset (c : Config) (d : Byte) (g : Fin 4) (k : Nat) (h : (laneBits c d g).getLsbD k = true) :
    (laneBits c 0xFF g).getLsbD k = true := by
  have hfull : ∀ i, i < 2 → (lane 0xFF g).getLsbD i = true := 
    (by decide : ∀ g : Fin 4, ∀ i, i < 2 → (lane 0xFF g).getLsbD i = true) g
  unfold laneBits at *
  simp only [BitVec.zeroExtend, BitVec.getLsbD_shiftLeft, BitVec.getLsbD_setWidth, Bool.and_eq_true] at *
  exact ⟨h.1, h.2.1, hfull _ (BitVec.lt_of_getLsbD h.2.2)⟩

theorem inPanel_pinlut (c : Config) (d : Byte) : InPanel c (pinlut c d) := by
  rw [inPanel_iff]
  intro k _ h
  have hlane := fun g => laneBits_subset c d g k
  simp only [panelMask, dataMask, pinlut, BitVec.getLsbD_or, Bool.or_eq_true] at *
  grind

/-! Each control line is a line of the panel. -/

theorem inPanel_clMask (c : Config) : InPanel c (clMask c) := by
  simp only [inPanel_iff, panelMask, BitVec.getLsbD_or]
  grind

theorem inPanel_leMask (c : Config) : InPanel c (leMask c) := by
  simp only [inPanel_iff, panelMask, BitVec.getLsbD_or]
  grind

theorem inPanel_ckvMask (c : Config) : InPanel c (ckvMask c) := by
  simp only [inPanel_iff, panelMask, BitVec.getLsbD_or]
  grind

theorem inPanel_sphMask (c : Config) : InPanel c (sphMask c) := by
  simp only [inPanel_iff, panelMask, BitVec.getLsbD_or]
  grind

/-- The panel has lines: SPH is one of them (00 R10). -/
theorem panelMask_ne_zero {c : Config} (h : configOk c = true) : panelMask c ≠ 0 := by
  have hpos : c.sphPos < 32 := by
    simp only [configOk, positionsOk, fastPositions, Bool.and_eq_true, List.all_cons, decide_eq_true_eq] at h
    grind
  intro hzero
  have hbit : (panelMask c).getLsbD c.sphPos = true := by
    simp [panelMask, sphMask, hpos]
  rw [hzero] at hbit
  simp at hbit

/-! #### What the invariant speaks of -/

theorem pinIsInput_of_shadow0 {s t : State} (h : t.shadow0 = s.shadow0) (q : Pin) :
    pinIsInput t .x0 q = pinIsInput s .x0 q := by
  simp only [pinIsInput, pinBitIn, shadowGet, shadowOf, h]

theorem pinLatch_of_shadow0 {s t : State} (h : t.shadow0 = s.shadow0) (q : Pin) :
    pinLatch t .x0 q = pinLatch s .x0 q := by
  simp only [pinLatch, pinBitIn, shadowGet, shadowOf, h]

/-- The core pins of `t` are directed and driven as in `s`. -/
def CorePinsKept (s t : State) : Prop :=
  ∀ q, q ∈ corePins s.cfg → pinIsInput t .x0 q = pinIsInput s .x0 q ∧ pinLatch t .x0 q = pinLatch s .x0 q

theorem CorePinsKept.of_shadow0 {s t : State} (h : t.shadow0 = s.shadow0) : CorePinsKept s t :=
  fun q _ => ⟨pinIsInput_of_shadow0 h q, pinLatch_of_shadow0 h q⟩

theorem PowerInv.congr {s t : State} (h : PowerInv s) (hcfg : t.cfg = s.cfg) (hpwr : t.pwr = s.pwr)
    (hdir : t.fastDir = s.fastDir) (hout : t.fastOut = s.fastOut) (hx : t.xpresent0 = s.xpresent0)
    (hpins : CorePinsKept s t) : PowerInv t := by
  obtain ⟨hpower, hdirs, hin, hon, hlow, hlatch⟩ := h
  unfold PowerInv
  rw [hcfg, hpwr, hdir, hout, hx]
  refine ⟨hpower, hdirs, hin, fun h => ?_, hlow, fun hoff hd q hq => ?_⟩
  · obtain ⟨hx, hd, hhigh⟩ := hon h
    refine ⟨hx, hd, fun q hq => ?_⟩
    rw [(hpins q hq).1, (hpins q hq).2]
    exact hhigh q hq
  · rw [(hpins q hq).2]
    exact hlatch hoff hd q hq

/-- What ON asks for. -/
theorem PowerInv.of_on {s : State} (hpwr : s.pwr = .on) (hx : s.xpresent0 = true) (hdir : s.fastDir = panelMask s.cfg)
    (hin : InPanel s.cfg s.fastOut)
    (hpins : ∀ sig, pinIsInput s .x0 (corePin s.cfg sig) = false ∧ pinLatch s .x0 (corePin s.cfg sig) = true) :
    PowerInv s := by
  have hoff : s.pwr ≠ .off := by simp [hpwr]
  refine ⟨.inr hpwr, .inr hdir, hin, fun _ => ⟨hx, hdir, fun p hp => ?_⟩, fun h => absurd h hoff,
    fun h => absurd h hoff⟩
  obtain ⟨sig, rfl⟩ := mem_corePins.mp hp
  exact hpins sig

/-- What OFF asks for after a power-off or an abort. -/
theorem PowerInv.of_off {s : State} (hpwr : s.pwr = .off) (hdir : s.fastDir = panelMask s.cfg) (hout : s.fastOut = 0)
    (hpins : ∀ sig, pinLatch s .x0 (corePin s.cfg sig) = false) : PowerInv s := by
  refine ⟨.inl hpwr, .inr hdir, hout.symm ▸ InPanel.zero s.cfg, fun h => ?_, fun _ => hout, fun _ _ p hp => ?_⟩
  · simp [hpwr] at h
  · obtain ⟨sig, rfl⟩ := mem_corePins.mp hp
    exact hpins sig

/-! #### The power sequencer (46 R331-R334) -/

theorem PollFrame.shadow0_eq {s t : State} (h : PollFrame s t) : t.shadow0 = s.shadow0 := by rw [h]

/-- After the steps of POWER_ON_SEQ and its poll, started OFF: the panel's pins are outputs, SPH alone is high, the core
pins are outputs, and all but OE are high (46 R331). -/
structure PoweredUp (s u : State) : Prop where
  cfg_eq : u.cfg = s.cfg
  xpresent0_eq : u.xpresent0 = s.xpresent0
  fastDir_eq : u.fastDir = panelMask s.cfg
  fastOut_inPanel : InPanel s.cfg u.fastOut
  outputs : ∀ sig, pinIsInput u .x0 (corePin s.cfg sig) = false
  latches : ∀ sig, pinLatch u .x0 (corePin s.cfg sig) = decide (sig ≠ .oe)

theorem poweredUp_of_poll {s u : State} (h : PowerInv s) (hoff : s.pwr ≠ .on) (hok : corePinsOk s.cfg = true)
    (hu : PollFrame (powerOnSetup s) u) : PoweredUp s u := by
  obtain ⟨hpower, hdirs, -, -, hlow, -⟩ := h
  have hout : s.fastOut = 0 := hlow (hpower.resolve_right hoff)
  obtain ⟨hframe, -, hdir, hlevels, houtputs, hlatches⟩ := powerOnSetup_spec s hok
  have hdrive : DriveFrame s u := hframe.trans hu.drive
  refine ⟨by rw [hdrive], by rw [hdrive], ?_, ?_, fun sig => ?_, fun sig => ?_⟩
  · have hu' : u.fastDir = s.fastDir ||| panelMask s.cfg := by rw [hu, hdir]
    rcases hdirs with hd | hd <;> simp [hu', hd]
  · have hu' : u.fastOut = sphMask s.cfg := by
      rw [hu, hlevels, hout]
      simp
    rw [hu']
    exact inPanel_sphMask s.cfg
  · rw [pinIsInput_of_shadow0 hu.shadow0_eq, houtputs]
  · rw [pinLatch_of_shadow0 hu.shadow0_eq, hlatches]

theorem PowerInv.absent {s : State} (h : PowerInv s) : PowerInv (recordError .absent s) :=
  h.congr rfl rfl rfl rfl rfl (.of_shadow0 rfl)

theorem PowerInv.powerOnSeq {s : State} (h : PowerInv s) (hok : configOk s.cfg = true) : PowerInv (powerOnSeq s) := by
  have hcore := configOk_corePins hok
  obtain ⟨-, heq⟩ | ⟨-, heq⟩ | ⟨hoff, hx, u, hu, heq | heq⟩ := powerOnSeq_cases s <;> rw [heq]
  · exact h
  · exact h.absent
  · obtain ⟨hcfg, hux, hdir, hin, houtputs, hlatches⟩ := poweredUp_of_poll h hoff hcore hu
    rw [← hcfg] at hcore hdir hin houtputs hlatches
    obtain ⟨hframe, hpwr, -, -, hfdir, hfout, hinputs, hhigh⟩ := powerOnFinish_spec u hcore
    have hfcfg : (powerOnFinish u).cfg = u.cfg := by rw [hframe]
    have hfx : (powerOnFinish u).xpresent0 = u.xpresent0 := by rw [hframe]
    refine .of_on hpwr (hfx.trans (hux.trans hx)) ?_ ?_ fun sig => ?_
    · rw [hfdir, hdir, hfcfg]
    · rwa [hfcfg, hfout]
    · rw [hfcfg, hinputs, hhigh, houtputs, hlatches]
      cases sig <;> simp
  · obtain ⟨hcfg, -, hdir, hin, -, -⟩ := poweredUp_of_poll h hoff hcore hu
    rw [← hcfg] at hdir hin
    obtain ⟨hframe, hpwr, -, -, hadir, haout, -, hlow⟩ := powerOnAbort_spec u
    have hacfg : (powerOnAbort u).cfg = u.cfg := by rw [hframe]
    refine .of_off hpwr ?_ ?_ fun sig => ?_
    · rw [hadir, hdir, hacfg]
    · rw [haout]
      exact hin
    · rw [hacfg, hlow]

theorem PowerInv.powerOffSeq {s : State} (h : PowerInv s) : PowerInv (powerOffSeq s) := by
  obtain ⟨-, heq⟩ | ⟨-, heq⟩ | ⟨hon, u, hu, heq⟩ := powerOffSeq_cases s <;> rw [heq]
  · exact h
  · exact h.absent
  · obtain ⟨hpower, -, hin, hpowered, -, -⟩ := h
    obtain ⟨-, hdir, -⟩ := hpowered (hpower.resolve_left hon)
    obtain ⟨hframe, -, -, hsdir, hsout, -, hlow⟩ := powerOffSetup_spec s
    have hcfg : u.cfg = s.cfg := by rw [hu, hframe]
    refine .of_off rfl ?_ ?_ fun sig => ?_
    · show u.fastDir = panelMask u.cfg
      rw [hcfg, hu, hsdir, hdir]
    · show u.fastOut = 0
      rw [hu, hsout]
      exact hin
    · rw [pinLatch_setPwr, setPwr_cfg, hcfg, pinLatch_of_shadow0 hu.shadow0_eq, hlow]

/-! #### Scans while ON (44 R260-R269) -/

/-- A scan changes the fast port's levels within the panel's lines, no pin's direction, and no latch that is high. -/
structure ScanEffect (s t : State) : Prop where
  frame : ScanFrame s t
  fastOut_inPanel : InPanel s.cfg s.fastOut → InPanel s.cfg t.fastOut
  inputs_eq : ∀ q, pinIsInput t .x0 q = pinIsInput s .x0 q
  latches_high : ∀ q, pinLatch s .x0 q = true → pinLatch t .x0 q = true

namespace ScanEffect

variable {s t : State}

protected theorem refl (s : State) : ScanEffect s s := ⟨ScanFrame.refl s, id, fun _ => rfl, fun _ => id⟩

protected theorem trans {u : State} (h : ScanEffect s t) (k : ScanEffect t u) : ScanEffect s u where
  frame := h.frame.trans k.frame
  fastOut_inPanel hs := h.frame.cfg_eq ▸ k.fastOut_inPanel (h.frame.cfg_eq.symm ▸ h.fastOut_inPanel hs)
  inputs_eq q := (k.inputs_eq q).trans (h.inputs_eq q)
  latches_high q hq := k.latches_high q (h.latches_high q hq)

/-- SPV falls and rises again, and CKV alone moves (44 R260). -/
theorem vscanStartSeq (s : State) : ScanEffect s (vscanStartSeq s) where
  frame := scanFrame_vscanStartSeq s
  fastOut_inPanel hs := by
    have hckv := inPanel_ckvMask s.cfg
    simp only [Machine.vscanStartSeq, fastSet_fastOut, fastClear_fastOut, delayUs_fastOut, coreSet_fastOut]
    exact hs.or hckv |>.and _ |>.or hckv |>.and _ |>.or hckv |>.and _ |>.or hckv |>.and _ |>.or hckv
  inputs_eq q := by simp [Machine.vscanStartSeq]
  latches_high q hq := by simp [Machine.vscanStartSeq, hq]

section Primitives

variable (h : ScanEffect s t)
include h

theorem then_fastSet {m : Word} (hm : InPanel s.cfg m) : ScanEffect s (fastSet m t) where
  frame := h.frame.trans (scanFrame_fastSet m t)
  fastOut_inPanel hs := (h.fastOut_inPanel hs).or hm
  inputs_eq q := by simp [h.inputs_eq]
  latches_high q hq := by simpa using h.latches_high q hq

theorem then_fastClear (m : Word) : ScanEffect s (fastClear m t) where
  frame := h.frame.trans (scanFrame_fastClear m t)
  fastOut_inPanel hs := (h.fastOut_inPanel hs).and _
  inputs_eq q := by simp [h.inputs_eq]
  latches_high q hq := by simpa using h.latches_high q hq

theorem then_delayUs (n : Nat) : ScanEffect s (delayUs n t) where
  frame := h.frame.trans (scanFrame_delayUs n t)
  fastOut_inPanel := h.fastOut_inPanel
  inputs_eq q := by simp [h.inputs_eq]
  latches_high q hq := by simpa using h.latches_high q hq

theorem then_columnWrite (d : Byte) : ScanEffect s (columnWrite d t) :=
  (h.then_fastSet (h.frame.cfg_eq ▸ (inPanel_pinlut t.cfg d).or (inPanel_clMask t.cfg))).then_fastClear _

theorem then_hscanStartSeq (d : Byte) : ScanEffect s (hscanStartSeq d t) :=
  (h.then_fastClear _).then_columnWrite d
    |>.then_fastSet (h.frame.cfg_eq ▸ inPanel_sphMask t.cfg)
    |>.then_fastSet (h.frame.cfg_eq ▸ inPanel_ckvMask t.cfg)

theorem then_vscanEndSeq : ScanEffect s (vscanEndSeq t) :=
  h.then_fastClear _ |>.then_fastSet (h.frame.cfg_eq ▸ inPanel_leMask t.cfg) |>.then_fastClear _

theorem then_scanRow (b : WordSource) (y : Nat) : ScanEffect s (scanRow b y t) :=
  (forUpTo_keeps _ (fun k _ _ hk => hk.then_columnWrite (b y (k + 1))) (h.then_hscanStartSeq (b y 0))).then_vscanEndSeq

theorem then_pass (b : WordSource) : ScanEffect s (pass b t) :=
  (forUpTo_keeps _ (fun y _ _ hy => hy.then_scanRow b y) (h.trans (.vscanStartSeq t))).then_delayUs _

end Primitives

end ScanEffect

theorem PowerInv.of_scan {s t : State} (h : PowerInv s) (hon : s.pwr = .on) (k : ScanEffect s t) : PowerInv t := by
  obtain ⟨-, -, hin, hpowered, -, -⟩ := h
  obtain ⟨hx, hdir, hpins⟩ := hpowered hon
  have hcfg := k.frame.cfg_eq
  refine .of_on (k.frame.pwr_eq.trans hon) ?_ ?_ ?_ fun sig => ?_
  · rw [k.frame]
    exact hx
  · rw [k.frame.fastDir_eq, hcfg, hdir]
  · rw [hcfg]
    exact k.fastOut_inPanel hin
  · obtain ⟨hinput, hlatch⟩ := hpins _ (mem_corePins.mpr ⟨sig, rfl⟩)
    rw [hcfg, k.inputs_eq]
    exact ⟨hinput, k.latches_high _ hlatch⟩

theorem PowerInv.noPower {s : State} (h : PowerInv s) : PowerInv (recordError .noPower s) :=
  h.congr rfl rfl rfl rfl rfl (.of_shadow0 rfl)

theorem PowerInv.vstartCmd {s : State} (h : PowerInv s) : PowerInv (vstartCmd s) := by
  unfold Machine.vstartCmd
  split
  · next hon =>
    split
    · exact h.of_scan hon (.vscanStartSeq s)
    · exact h.absent
  · exact h.noPower

theorem PowerInv.hstartCmd {s : State} (h : PowerInv s) (d : Byte) : PowerInv (hstartCmd d s) := by
  unfold Machine.hstartCmd
  split
  · next hon => exact h.of_scan hon ((ScanEffect.refl s).then_hscanStartSeq d)
  · exact h.noPower

theorem PowerInv.hdataCmd {s : State} (h : PowerInv s) (d : Byte) : PowerInv (hdataCmd d s) := by
  unfold Machine.hdataCmd
  split
  · next hon => exact h.of_scan hon ((ScanEffect.refl s).then_columnWrite d)
  · exact h.noPower

theorem PowerInv.vendCmd {s : State} (h : PowerInv s) : PowerInv (vendCmd s) := by
  unfold Machine.vendCmd
  split
  · next hon => exact h.of_scan hon (ScanEffect.refl s).then_vscanEndSeq
  · exact h.noPower

theorem powerInv_keptByRefresh : KeptByRefresh PowerInv where
  pass b s hon hs := hs.of_scan hon ((ScanEffect.refl s).then_pass b)
  commitFull _ _ hs := hs.congr rfl rfl rfl rfl rfl (.of_shadow0 rfl)
  commitPartial s _ hs := by
    obtain ⟨p, hp⟩ := commitPartial_frame s
    rw [hp]
    exact hs.congr rfl rfl rfl rfl rfl (.of_shadow0 rfl)
  powerOff _ hs := hs.powerOffSeq

/-! #### Pin commands (41 R172-R174) -/

/-- A pin that PINMODE and PINWRITE accept is no core pin. -/
theorem not_core_of_accepted {cfg : Config} {c : Chip} {p q : Pin} (h : ¬namesCorePin cfg c p = true)
    (hq : q ∈ corePins cfg) : ¬(Chip.x0 = c ∧ q = p) := by
  rintro ⟨rfl, rfl⟩
  simp [namesCorePin, hq] at h

theorem corePinsKept_pinmodeCmd (c : Chip) (p : Pin) (mode : PinMode) (s : State) :
    CorePinsKept s (pinmodeCmd c p mode s) := by
  unfold pinmodeCmd
  split
  · exact .of_shadow0 (by simp)
  · next hcore =>
    split
    · intro q hq
      rw [pinIsInput_pinModeSet, pinLatch_pinModeSet, if_neg (not_core_of_accepted hcore hq)]
      exact ⟨rfl, rfl⟩
    · exact .of_shadow0 (by simp)

theorem corePinsKept_pinwriteCmd (c : Chip) (p : Pin) (l : Bool) (s : State) :
    CorePinsKept s (pinwriteCmd c p l s) := by
  unfold pinwriteCmd
  split
  · exact .of_shadow0 (by simp)
  · next hcore =>
    split
    · intro q hq
      rw [pinIsInput_pinOutSet, pinLatch_pinOutSet, if_neg (not_core_of_accepted hcore hq)]
      exact ⟨rfl, rfl⟩
    · exact .of_shadow0 (by simp)

/-- PINREAD writes a port register of the shadow, which holds neither direction nor latch (41 R174). -/
theorem corePinsKept_pinreadCmd (c : Chip) (p : Pin) (s : State) : CorePinsKept s (pinreadCmd c p s) := by
  unfold pinreadCmd
  split
  · obtain ⟨e, d, hdraw⟩ := drawExp_frame s
    have hget : ∀ a, a ≠ gpioOf p → shadowGet (setResult (pinLevelWord (expRead c (gpioOf p) s).1 p)
        (shadowPut c (gpioOf p) (expRead c (gpioOf p) s).1 (expRead c (gpioOf p) s).2)) .x0 a = shadowGet s .x0 a := by
      intro a ha
      show shadowGet (shadowPut c (gpioOf p) _ _) .x0 a = _
      rw [shadowGet_shadowPut, if_neg fun hca => ha hca.2]
      simp only [expRead, shadowGet_emit, hdraw]
      rfl
    intro q _
    simp only [pinIsInput, pinLatch, pinBitIn]
    rw [hget, hget]
    · exact ⟨rfl, rfl⟩
    · simp [olatOf, gpioOf]; omega
    · simp [iodirOf, gpioOf]; omega
  · exact .of_shadow0 (by simp)

/-- A command that is no power, refresh or scan command leaves the power state and the fast port. -/
theorem PowerInv.of_corePinsKept {i : Instr} {s t : State} (h : PowerInv s) (ht : exec i s = .next t)
    (hk : kindOf i ∉ [.power, .refresh, .scanStart, .scanWord]) (hpins : CorePinsKept s t) : PowerInv t := by
  obtain ⟨⟨hcfg, -, -, -, -, hx, -⟩, -, -, -, -, hpower, hout, -⟩ := onlyTheNamedCommandsWrite i s t ht
  obtain ⟨hpwr, -, hdir, -⟩ := hpower fun hmem => hk (by simp at hmem ⊢; tauto)
  exact h.congr hcfg hpwr hdir (hout hk) hx hpins

/-- Nor does one that writes no shadow byte of expander 0 move a core pin. -/
theorem PowerInv.of_kind {i : Instr} {s t : State} (h : PowerInv s) (ht : exec i s = .next t)
    (hk : kindOf i ∉ [.power, .refresh, .scanStart, .scanWord, .pin .x0, .pinRead .x0]) : PowerInv t := by
  obtain ⟨-, -, -, hshadow, -⟩ := onlyTheNamedCommandsWrite i s t ht
  exact h.of_corePinsKept ht (fun hmem => hk (by simp at hmem ⊢; tauto))
    (.of_shadow0 (hshadow fun hmem => hk (by simp at hmem ⊢; tauto)))

theorem powerInv_exec {i : Instr} {s t : State} (h : PowerInv s) (hok : configOk s.cfg = true)
    (ht : exec i s = .next t) : PowerInv t := by
  have hon := h.powerOnSeq hok
  cases i with
  | display => exact Host.Outcome.next.inj ht ▸ powerInv_keptByRefresh.displayCmd hon
  | partialRefresh => exact Host.Outcome.next.inj ht ▸ powerInv_keptByRefresh.partialCmd h hon
  | pwron => exact Host.Outcome.next.inj ht ▸ hon
  | pwroff => exact Host.Outcome.next.inj ht ▸ h.powerOffSeq
  | vstart => exact Host.Outcome.next.inj ht ▸ h.vstartCmd
  | hstart d => exact Host.Outcome.next.inj ht ▸ h.hstartCmd d
  | hdata d => exact Host.Outcome.next.inj ht ▸ h.hdataCmd d
  | vend => exact Host.Outcome.next.inj ht ▸ h.vendCmd
  | pinmode c p mode =>
    exact h.of_corePinsKept ht (by simp [kindOf]) (Host.Outcome.next.inj ht ▸ corePinsKept_pinmodeCmd c p mode s)
  | pinwrite c p l =>
    exact h.of_corePinsKept ht (by simp [kindOf]) (Host.Outcome.next.inj ht ▸ corePinsKept_pinwriteCmd c p l s)
  | pinread c p =>
    exact h.of_corePinsKept ht (by simp [kindOf]) (Host.Outcome.next.inj ht ▸ corePinsKept_pinreadCmd c p s)
  | nop | setpix _ _ _ | clear | setmode _ | setrot _ | reserved _ => exact h.of_kind ht (by simp [kindOf])

theorem powerInv_resetSeq {s : State} (hok : configOk s.cfg = true) : PowerInv (resetSeq s) := by
  have h := initFrame_resetSeq s
  unfold InitFrame at h
  rw [h]
  refine ⟨.inl rfl, .inl rfl, InPanel.zero s.cfg, nofun, fun _ => rfl, fun _ hdir => ?_⟩
  exact absurd hdir.symm (panelMask_ne_zero hok)

/-- Settles O53: scans run while ON only and move the panel's lines only; the power-on, its abort and the power-off leave
the levels the invariant asks for; no pin command moves a core pin. -/
theorem stepKeepsPowerInv : Obligations.StepKeepsPowerInv := by
  unfold Obligations.StepKeepsPowerInv
  intro s t h hstep
  obtain ⟨hok, heffect⟩ := stepEffect_step hstep
  cases heffect with
  | quiet rest data => exact h.congr rfl rfl rfl rfl rfl (.of_shadow0 rfl)
  | dropped rest => exact h.congr rfl rfl rfl rfl rfl (.of_shadow0 rfl)
  | command rest d u _ _ hu =>
    have hs : PowerInv { s with hostIn := rest, busy := true } := h.congr rfl rfl rfl rfl rfl (.of_shadow0 rfl)
    have hu : PowerInv u := by
      obtain ⟨i, hi⟩ | rfl := execute_next hu
      · exact powerInv_exec hs hok hi
      · exact hs.congr rfl rfl rfl rfl rfl (.of_shadow0 rfl)
    exact hu.congr rfl rfl rfl rfl rfl (.of_shadow0 rfl)
  | reset rest => exact powerInv_resetSeq hok

end Sys2Proof.Machine

/-! ### The status invariant (60 R360, R365, R366) -/

namespace Sys2Proof.Machine

/-- The status invariant but for BUSY, which is 1 while a command runs. -/
def FlagsInv (s : State) : Prop :=
  s.lastErr ≤ 7 ∧
  (s.fault = true → s.lastErr = 7) ∧
  (s.errCmd = true ∨ s.errNopwr = true ∨ s.pwrFail = true → s.lastErr ≠ 0) ∧
  (s.pwrFail = true → s.pwr = .off) ∧
  s.result &&& 0xFFFFFFFE = 0

theorem statusInv_iff (s : State) : StatusInv s ↔ s.busy = false ∧ FlagsInv s := Iff.rfl

/-- No error is recorded after a reset (70 R390). -/
theorem FlagsInv.of_clear {s : State} (hlast : s.lastErr = 0) (hfault : s.fault = false) (hcmd : s.errCmd = false)
    (hnopwr : s.errNopwr = false) (hfail : s.pwrFail = false) (hresult : s.result = 0) : FlagsInv s := by
  simp [FlagsInv, hlast, hfault, hcmd, hnopwr, hfail, hresult]

/-! #### Errors -/

theorem ErrCode.num_le (e : ErrCode) : e.num ≤ 7 := by cases e <;> decide

/-- An error while not halted leaves its own code; a timed-out power-on is the only one that sets PWR_FAIL (60 R360). -/
theorem FlagsInv.recordError {s : State} (h : FlagsInv s) (hfault : s.fault = false) {e : ErrCode}
    (he : e = .pgTimeout → s.pwr = .off) : FlagsInv (recordError e s) := by
  obtain ⟨-, -, -, hpwr, hresult⟩ := h
  refine ⟨e.num_le, fun hf => ?_, fun _ => e.num_ne_zero, fun hp => ?_, by simpa using hresult⟩
  · have habsent : e = .absent := by simpa [hfault] using hf
    rw [habsent]
    rfl
  · rw [recordError_pwr]
    rw [recordError_pwrFail, Bool.or_eq_true, decide_eq_true_eq] at hp
    exact hp.elim hpwr he

/-- An absent expander halts the block, whatever was recorded before (60 R366). -/
theorem FlagsInv.absent {s : State} (h : FlagsInv s) : FlagsInv (Machine.recordError .absent s) := by
  obtain ⟨-, -, -, hpwr, hresult⟩ := h
  exact ⟨ErrCode.absent.num_le, fun _ => rfl, fun _ => ErrCode.absent.num_ne_zero, hpwr, hresult⟩

/-! #### The power sequencer -/

theorem ScanFrame.flagsInv {s t : State} (k : ScanFrame s t) (h : FlagsInv s) : FlagsInv t := by
  rw [k]
  exact h

theorem PinFrame.flagsInv {c : Chip} {s t : State} (k : PinFrame c s t) (h : FlagsInv s) : FlagsInv t := by
  cases c <;> (simp only [PinFrame] at k; rw [k]; exact h)

/-- The panel drive writes no error bit but PWR_FAIL and FAULT. -/
theorem FlagsInv.of_drive {s t : State} (h : FlagsInv s) (k : DriveFrame s t) (hlast : t.lastErr = s.lastErr)
    (hfail : t.pwrFail = true → s.pwrFail = true ∧ t.pwr = .off) : FlagsInv t := by
  obtain ⟨hle, hfault, hflags, -, hresult⟩ := h
  have hfault_eq : t.fault = s.fault := by rw [k]
  have hcmd_eq : t.errCmd = s.errCmd := by rw [k]
  have hnopwr_eq : t.errNopwr = s.errNopwr := by rw [k]
  have hresult_eq : t.result = s.result := by rw [k]
  unfold FlagsInv
  rw [hlast, hfault_eq, hcmd_eq, hnopwr_eq, hresult_eq]
  exact ⟨hle, hfault, fun hset => hflags (hset.imp_right (Or.imp_right fun hf => (hfail hf).1)),
    fun hf => (hfail hf).2, hresult⟩

@[simp] theorem coreOut_lastErr (sig : CoreSig) (s : State) : (coreOut sig s).lastErr = s.lastErr :=
  (scanFrame_coreOut sig s).lastErr_eq
@[simp] theorem fastSet_lastErr (m : Word) (s : State) : (fastSet m s).lastErr = s.lastErr := rfl
@[simp] theorem fastDirOut_lastErr (m : Word) (s : State) : (fastDirOut m s).lastErr = s.lastErr := rfl
@[simp] theorem pmicWrite_lastErr (a v : Byte) (s : State) : (pmicWrite a v s).lastErr = s.lastErr := rfl

/-- A power-on that reaches ON clears PWR_FAIL and records nothing; one that times out leaves code 6 and OFF (46 R331,
R333). -/
theorem FlagsInv.powerOnSeq {s : State} (h : FlagsInv s) (hfault : s.fault = false) : FlagsInv (powerOnSeq s) := by
  obtain ⟨-, heq⟩ | ⟨-, heq⟩ | ⟨-, -, u, hu, heq | heq⟩ := powerOnSeq_cases s <;> rw [heq]
  · exact h
  · exact h.absent
  · have hdrive := ((driveFrame_powerOnSetup s).trans hu.drive).trans (driveFrame_powerOnFinish u)
    refine h.of_drive hdrive ?_ fun hf => absurd hf Bool.false_ne_true
    show (coreSet .oe true u).lastErr = s.lastErr
    rw [coreSet_lastErr, hu]
    simp [powerOnSetup]
  · obtain ⟨hframe, hpwr, -, hlast, -⟩ := powerOnAbort_spec u
    have hdrive := ((driveFrame_powerOnSetup s).trans hu.drive).trans hframe
    have hresult : (powerOnAbort u).result = s.result := by rw [hdrive]
    have hnofault : (powerOnAbort u).fault = false := by
      rw [hdrive]
      exact hfault
    obtain ⟨-, -, -, -, hbit⟩ := h
    unfold FlagsInv
    rw [hlast, hnofault, hresult]
    exact ⟨by decide, nofun, fun _ => by decide, fun _ => hpwr, hbit⟩

theorem PollFrame.pwrFail_eq {s t : State} (h : PollFrame s t) : t.pwrFail = s.pwrFail := by rw [h]

/-- A power-off records nothing and leaves OFF (46 R334). -/
theorem FlagsInv.powerOffSeq {s : State} (h : FlagsInv s) : FlagsInv (powerOffSeq s) := by
  obtain ⟨-, heq⟩ | ⟨-, heq⟩ | ⟨-, u, hu, heq⟩ := powerOffSeq_cases s <;> rw [heq]
  · exact h
  · exact h.absent
  · obtain ⟨hframe, hfail, hlast, -⟩ := powerOffSetup_spec s
    have hdrive := (hframe.trans hu.drive).trans (driveFrame_setPwr .off u)
    refine h.of_drive hdrive ?_ fun hf => ⟨?_, rfl⟩
    · rw [setPwr_lastErr, hu, hlast]
    · rwa [setPwr_pwrFail, hu.pwrFail_eq, hfail] at hf

theorem flagsInv_keptByRefresh : KeptByRefresh FlagsInv where
  pass b s _ hs := (scanFrame_pass b s).flagsInv hs
  commitFull _ _ hs := hs
  commitPartial s _ hs := by
    obtain ⟨p, hp⟩ := commitPartial_frame s
    rw [hp]
    exact hs
  powerOff _ hs := hs.powerOffSeq

/-! #### The other commands -/

section Commands

variable {s : State} (h : FlagsInv s) (hfault : s.fault = false)
include h hfault

theorem FlagsInv.vstartCmd : FlagsInv (vstartCmd s) := by
  unfold Machine.vstartCmd
  split
  · split
    · exact (scanFrame_vscanStartSeq s).flagsInv h
    · exact h.absent
  · exact h.recordError hfault nofun

theorem FlagsInv.hstartCmd (d : Byte) : FlagsInv (hstartCmd d s) := by
  unfold Machine.hstartCmd
  split
  · exact (scanFrame_hscanStartSeq d s).flagsInv h
  · exact h.recordError hfault nofun

theorem FlagsInv.hdataCmd (d : Byte) : FlagsInv (hdataCmd d s) := by
  unfold Machine.hdataCmd
  split
  · exact (scanFrame_columnWrite d s).flagsInv h
  · exact h.recordError hfault nofun

theorem FlagsInv.vendCmd : FlagsInv (vendCmd s) := by
  unfold Machine.vendCmd
  split
  · exact (scanFrame_vscanEndSeq s).flagsInv h
  · exact h.recordError hfault nofun

theorem FlagsInv.pinmodeCmd (c : Chip) (p : Pin) (mode : PinMode) : FlagsInv (pinmodeCmd c p mode s) := by
  unfold Machine.pinmodeCmd
  split
  · exact h.recordError hfault nofun
  · split
    · exact (pinFrame_pinModeSet c p mode s).flagsInv h
    · exact h.absent

theorem FlagsInv.pinwriteCmd (c : Chip) (p : Pin) (l : Bool) : FlagsInv (pinwriteCmd c p l s) := by
  unfold Machine.pinwriteCmd
  split
  · exact h.recordError hfault nofun
  · split
    · exact (pinFrame_pinOutSet c p l s).flagsInv h
    · exact h.absent

omit hfault in
/-- PINREAD leaves one bit in RESULT (41 R174). -/
theorem FlagsInv.pinreadCmd (c : Chip) (p : Pin) : FlagsInv (pinreadCmd c p s) := by
  have hbit : ∀ v : Byte, pinLevelWord v p &&& 0xFFFFFFFE = 0 := by
    intro v
    unfold pinLevelWord
    generalize v >>> (p.val % 8) = w
    revert w
    decide
  unfold Machine.pinreadCmd
  split
  · obtain ⟨hle, hf, hflags, hpwr, -⟩ := h
    obtain ⟨e, d, hdraw⟩ := drawExp_frame s
    simp only [expRead, hdraw]
    cases c <;> exact ⟨hle, hf, hflags, hpwr, hbit _⟩
  · exact h.absent

theorem flagsInv_exec {i : Instr} {t : State} (ht : exec i s = .next t) : FlagsInv t := by
  have hon := h.powerOnSeq hfault
  cases i with
  | nop => exact Host.Outcome.next.inj ht ▸ h
  | setpix x y v =>
    rw [show t = _ from kindFrame_execSetpix ht]
    exact h
  | clear =>
    rw [show t = _ from Host.Outcome.next.inj ht ▸ kindFrame_clearCmd s]
    exact h
  | setmode m =>
    rw [show t = _ from Host.Outcome.next.inj ht ▸ kindFrame_setmodeCmd m s]
    exact h
  | setrot r => exact Host.Outcome.next.inj ht ▸ h
  | display => exact Host.Outcome.next.inj ht ▸ flagsInv_keptByRefresh.displayCmd hon
  | partialRefresh => exact Host.Outcome.next.inj ht ▸ flagsInv_keptByRefresh.partialCmd h hon
  | pwron => exact Host.Outcome.next.inj ht ▸ hon
  | pwroff => exact Host.Outcome.next.inj ht ▸ h.powerOffSeq
  | vstart => exact Host.Outcome.next.inj ht ▸ h.vstartCmd hfault
  | hstart d => exact Host.Outcome.next.inj ht ▸ h.hstartCmd hfault d
  | hdata d => exact Host.Outcome.next.inj ht ▸ h.hdataCmd hfault d
  | vend => exact Host.Outcome.next.inj ht ▸ h.vendCmd hfault
  | pinmode c p mode => exact Host.Outcome.next.inj ht ▸ h.pinmodeCmd hfault c p mode
  | pinwrite c p l => exact Host.Outcome.next.inj ht ▸ h.pinwriteCmd hfault c p l
  | pinread c p => exact Host.Outcome.next.inj ht ▸ h.pinreadCmd c p
  | reserved low => exact Host.Outcome.next.inj ht ▸ h.recordError hfault nofun

end Commands

/-- Settles O54: a command runs while not halted only, and records its last error last; BUSY falls at its end. -/
theorem stepKeepsStatusInv : Obligations.StepKeepsStatusInv := by
  unfold Obligations.StepKeepsStatusInv
  intro s t _ h hstep
  obtain ⟨hidle, hflags⟩ := (statusInv_iff s).mp h
  obtain ⟨-, heffect⟩ := stepEffect_step hstep
  cases heffect with
  | quiet rest data => exact ⟨hidle, hflags⟩
  | dropped rest _ hbusy => exact absurd (hidle.symm.trans hbusy) nofun
  | command rest d u hfault _ hu =>
    have hs : FlagsInv { s with hostIn := rest, busy := true } := hflags
    have hu : FlagsInv u := by
      obtain ⟨i, hi⟩ | rfl := execute_next hu
      · exact flagsInv_exec hs hfault hi
      · exact hs.recordError hfault nofun
    exact ⟨rfl, hu⟩
  | reset rest =>
    rw [show resetSeq _ = _ from initFrame_resetSeq { s with hostIn := rest }]
    exact ⟨rfl, FlagsInv.of_clear rfl rfl rfl rfl rfl rfl⟩

end Sys2Proof.Machine

/-! ### Host accesses that are not decoded (20 R86; 60 R378) -/

namespace Sys2Proof.Machine

theorem hostReg_eq_none_iff (c : Config) (addr bits : Nat) :
    hostReg c addr bits = none ↔ ¬(bits = 32 ∧ addr ∈ [c.regBase, c.regBase + 4, c.regBase + 8]) := by
  unfold hostReg
  split_ifs <;> simp_all

/-- Settles O11: such an access names no register, and the host port refuses it. -/
theorem undecodedAccessesAreRefused : Obligations.UndecodedAccessesAreRefused := by
  unfold Obligations.UndecodedAccessesAreRefused
  intro s addr bits v rest hok haccess
  have hnone : hostReg s.cfg addr bits = none := (hostReg_eq_none_iff s.cfg addr bits).mpr haccess
  refine ⟨fun h => ?_, fun h => ?_⟩ <;> rw [step_cons hok h]
  · simp only [hostAction, hostWrite, hnone]
  · simp only [hostAction, hostRead, hnone]

end Sys2Proof.Machine

/-! ### Pixels in the buffers and in the bus words (20 R81-R83; 42 R203-R210; 45 R293, R297) -/

namespace Sys2Proof.Machine

/-- The nibble of a byte at an even or an odd place: high nibble first. -/
def nibbleAt (b : Byte) (n : Nat) : BitVec 4 := if n % 2 = 0 then hiNibble b else loNibble b

theorem grayPixel_eq (s : State) (px py : Nat) :
    grayPixel s px py = nibbleAt (fb3Read s (fb3Index s.cfg px py)) px := rfl

/-- Bit 3 - j of nibble k of a byte is the pixel 4k + j, the leftmost pixel being bit 7 (20 R81). -/
theorem nibbleAt_getLsbD (b : Byte) (k : Nat) (j : Fin 4) :
    (nibbleAt b k).getLsbD j.rev.val = b.getLsbD (7 - (4 * k + j.val) % 8) := by
  have hj : 3 - j.val < 4 := by omega
  rw [Fin.val_rev, nibbleAt]
  split
  · rw [show 7 - (4 * k + j.val) % 8 = 4 + (3 - j.val) by omega]
    simp [hiNibble, hj]
  · rw [show 7 - (4 * k + j.val) % 8 = 3 - j.val by omega]
    simp [loNibble, hj]

/-- The four pixels of bus word k stand in the byte that the word reads (20 R81, 45 R293). -/
theorem fb1Index_word (c : Config) (y k : Nat) (j : Fin 4) :
    fb1Index c (4 * k + j.val) y = monoWordIndex c y k := by
  unfold fb1Index monoWordIndex
  omega

/-- Pixels 0 and 1 of bus word k stand in its first FB3 byte, pixels 2 and 3 in its second (20 R82, 45 R293). -/
theorem fb3Index_word (c : Config) (y k : Nat) (j : Fin 4) :
    fb3Index c (4 * k + j.val) y = grayWordIndex c y k + j.val / 2 := by
  unfold fb3Index grayWordIndex
  omega

/-! #### Monochrome words -/

@[simp] theorem lane_lutw (c : Config) (m : BitVec 4) (j : Fin 4) :
    lane (lutw c m) j = if m.getLsbD j.val then c.codeWhite else codeSkip := lane_ofLanes _ j

@[simp] theorem lane_lutb (c : Config) (m : BitVec 4) (j : Fin 4) :
    lane (lutb c m) j = if m.getLsbD j.val then c.codeBlack else codeSkip := lane_ofLanes _ j

@[simp] theorem and_codeSkip (code : BitVec 2) : code &&& codeSkip = code := BitVec.and_allOnes

@[simp] theorem codeSkip_and (code : BitVec 2) : codeSkip &&& code = code := BitVec.allOnes_and

theorem toWhite_getLsbD (new old : Byte) (i : Nat) :
    (toWhite new old).getLsbD i = (old.getLsbD i && !new.getLsbD i) := by
  simp only [toWhite, BitVec.getLsbD_and, BitVec.getLsbD_xor]
  cases old.getLsbD i <;> cases new.getLsbD i <;> rfl

theorem toBlack_getLsbD (new old : Byte) (i : Nat) (hi : i < 8) :
    (toBlack new old).getLsbD i = (new.getLsbD i && !old.getLsbD i) := by
  simp only [toBlack, BitVec.getLsbD_and, BitVec.getLsbD_xor, BitVec.getLsbD_not, hi, decide_true, Bool.true_and]
  cases old.getLsbD i <;> cases new.getLsbD i <;> rfl

theorem half_monoPair (c : Config) (mw mb : Byte) (k : Nat) :
    half (monoPair c mw mb) k = lutw c (nibbleAt mw k) &&& lutb c (nibbleAt mb k) := by
  unfold half nibbleAt
  split <;> rfl

/-- Lane 3 - j of a word drives its pixel j by the bits of that pixel in the two masks (42 R209, R210). -/
theorem lane_half_monoPair (c : Config) (mw mb : Byte) (k : Nat) (j : Fin 4) :
    lane (half (monoPair c mw mb) k) j.rev =
      (if mw.getLsbD (7 - (4 * k + j.val) % 8) then c.codeWhite else codeSkip) &&&
      (if mb.getLsbD (7 - (4 * k + j.val) % 8) then c.codeBlack else codeSkip) := by
  rw [half_monoPair, lane_and, lane_lutw, lane_lutb, nibbleAt_getLsbD, nibbleAt_getLsbD]

theorem monoPixel_word (s : State) (y k : Nat) (j : Fin 4) :
    monoPixel s (4 * k + j.val) y =
      (fb1Read s (monoWordIndex s.cfg y k)).getLsbD (7 - (4 * k + j.val) % 8) := by
  rw [monoPixel, fb1Index_word]

theorem prevPixel_word (s : State) (y k : Nat) (j : Fin 4) :
    prevPixel s (4 * k + j.val) y =
      (prevRead s (monoWordIndex s.cfg y k)).getLsbD (7 - (4 * k + j.val) % 8) := by
  rw [prevPixel, fb1Index_word]

/-- Settles O20: the comparator's two masks say of each pixel whether it became white, became black, or stayed. -/
theorem partialPassDrivesExactlyChangedPixels : Obligations.PartialPassDrivesExactlyChangedPixels := by
  unfold Obligations.PartialPassDrivesExactlyChangedPixels
  intro s y k j
  rw [bDiff, lane_half_monoPair, toWhite_getLsbD, toBlack_getLsbD _ _ _ (by omega), ← monoPixel_word,
    ← prevPixel_word]
  cases monoPixel s (4 * k + j.val) y <;> cases prevPixel s (4 * k + j.val) y <;> simp

/-! #### Full and grayscale words -/

theorem lane_bFwd (s : State) (y k : Nat) (j : Fin 4) :
    lane (bFwd s y k) j.rev = if monoPixel s (4 * k + j.val) y then codeSkip else s.cfg.codeWhite := by
  have hi : 7 - (4 * k + j.val) % 8 < 8 := by omega
  rw [bFwd, fwdPair, lane_half_monoPair, BitVec.getLsbD_not, ← monoPixel_word]
  cases monoPixel s (4 * k + j.val) y <;> simp [hi]

theorem lane_bRev (s : State) (y k : Nat) (j : Fin 4) :
    lane (bRev s y k) j.rev = if monoPixel s (4 * k + j.val) y then s.cfg.codeBlack else codeSkip := by
  rw [bRev, revPair, lane_half_monoPair, ← monoPixel_word]
  simp

/-- The level of a nibble, bit 3 ignored, is what the phase tables index by (42 R205). -/
theorem hiNibble_level (b : Byte) : (hiNibble b).extractLsb' 0 3 = b.extractLsb' 4 3 := by
  ext i hi
  simp [hiNibble]
  omega

theorem loNibble_level (b : Byte) : (loNibble b).extractLsb' 0 3 = b.extractLsb' 0 3 := by
  ext i hi
  simp [loNibble]

/-- GRAY_BYTE drives four nibbles, the first one in lane 3 (42 R201, R205). -/
theorem grayByte_eq_ofLanes (c : Config) (p : Phase) (a b : Byte) :
    grayByte c p a b =
      ofLanes fun g => waveCode c ((nibbleAt (if g.rev.val < 2 then a else b) g.rev.val).extractLsb' 0 3) p := by
  have happend : ∀ w x y z : BitVec 2,
      ((w.zeroExtend 8 <<< 2 ||| x.zeroExtend 8) <<< 4 ||| (y.zeroExtend 8 <<< 2 ||| z.zeroExtend 8) : Byte) =
        w ++ x ++ y ++ z := by decide
  rw [grayByte, glutHi, glutLo, glutLo, happend, ← hiNibble_level a, ← loNibble_level a, ← hiNibble_level b,
    ← loNibble_level b]
  rfl

theorem lane_bGray (s : State) (y k : Nat) (j : Fin 4) (p : Phase) :
    lane (bGray p s y k) j.rev = waveCode s.cfg ((grayPixel s (4 * k + j.val) y).extractLsb' 0 3) p := by
  have hparity : ∀ b, nibbleAt b (4 * k + j.val) = nibbleAt b j.val := by
    intro b
    rw [nibbleAt, nibbleAt, show (4 * k + j.val) % 2 = j.val % 2 by omega]
  rw [bGray, grayByte_eq_ofLanes, lane_ofLanes, Fin.rev_rev, grayPixel_eq, fb3Index_word, hparity]
  split
  · rw [show j.val / 2 = 0 by omega, Nat.add_zero]
  · rw [show j.val / 2 = 1 by omega]

/-- Settles O21: one lemma per word source. -/
theorem fullAndGrayPassesDriveEachPixel : Obligations.FullAndGrayPassesDriveEachPixel := by
  unfold Obligations.FullAndGrayPassesDriveEachPixel
  intro s y k j p
  exact ⟨lane_bFwd s y k j, lane_bRev s y k j, lane_bGray s y k j p⟩

end Sys2Proof.Machine

/-! ### SETPIX (43 R230, R231, R237) -/

namespace Sys2Proof.Machine

theorem eight_dvd_w {c : Config} (h : configOk c = true) : 8 ∣ c.w := by
  simp only [configOk, geometryOk, Bool.and_eq_true, decide_eq_true_eq] at h
  omega

theorem two_dvd_w {c : Config} (h : configOk c = true) : 2 ∣ c.w := Nat.dvd_trans (by decide) (eight_dvd_w h)

/-! #### From the logical extent to the panel -/

theorem inExtent_iff (c : Config) (r : BitVec 2) (x y : Int) :
    inExtent c r x y = true ↔ 0 ≤ x ∧ 0 ≤ y ∧ x < (logicalExtent c r).1 ∧ y < (logicalExtent c r).2 := by
  simp [inExtent, and_assoc]

/-- A rotation takes the logical extent into the panel (43 R235). -/
theorem rotate_mem_panel {c : Config} {r : BitVec 2} {x y : Int} (h : inExtent c r x y = true) :
    0 ≤ (rotate c r x y).1 ∧ (rotate c r x y).1 < c.w ∧ 0 ≤ (rotate c r x y).2 ∧ (rotate c r x y).2 < c.h := by
  obtain ⟨hx, hy, hw, hh⟩ := (inExtent_iff c r x y).mp h
  obtain rfl | rfl | rfl | rfl := (by decide : ∀ r : BitVec 2, r = 0#2 ∨ r = 1#2 ∨ r = 2#2 ∨ r = 3#2) r
  all_goals
    simp only [logicalExtent] at hw hh
    simp only [rotate]
    omega

theorem physicalPixel_lt {c : Config} {r : BitVec 2} {x y : Int} (h : inExtent c r x y = true) :
    (physicalPixel c r x y).1 < c.w ∧ (physicalPixel c r x y).2 < c.h := by
  obtain ⟨hx, hw, hy, hh⟩ := rotate_mem_panel h
  unfold physicalPixel
  omega

/-! #### Buffers of d pixels a byte (20 R81, R82) -/

section Layout

variable {d w px : Nat} (hd : d ∣ w) (hpx : px < w)
include hd hpx

/-- Every pixel of the panel has its byte inside the buffer (43 R237). -/
theorem pixelIndex_lt {h py : Nat} (hpy : py < h) : py * (w / d) + px / d < w / d * h :=
  calc py * (w / d) + px / d
    _ < (py + 1) * (w / d) := by have := Nat.div_lt_div_of_lt_of_dvd hd hpx; rw [Nat.succ_mul]; omega
    _ ≤ h * (w / d) := Nat.mul_le_mul_right _ hpy
    _ = w / d * h := Nat.mul_comm _ _

/-- Two pixels share a byte only in one row and one group of d. -/
theorem pixelIndex_inj {qx py qy : Nat} (hqx : qx < w) (h : qy * (w / d) + qx / d = py * (w / d) + px / d) :
    qy = py ∧ qx / d = px / d := by
  have hp := Nat.div_lt_div_of_lt_of_dvd hd hpx
  have hq := Nat.div_lt_div_of_lt_of_dvd hd hqx
  have hgroup := congrArg (· % (w / d)) h
  simp only [Nat.mul_add_mod', Nat.mod_eq_of_lt hp, Nat.mod_eq_of_lt hq] at hgroup
  simp only [hgroup, Nat.add_right_cancel_iff] at h
  exact ⟨Nat.eq_of_mul_eq_mul_right (Nat.zero_lt_of_lt hp) h, hgroup⟩

/-- Writing a byte that differs from the old one at the place of px only changes that pixel of the buffer and no other.
`pixel b qx` is what byte `b` shows at the place of column qx. -/
theorem pixel_write {α : Type} {blank b : Byte} {m : List Host.Cell} {py qx qy : Nat} {v : α} (pixel : Byte → Nat → α)
    (hwf : Memory.wf blank m = true) (hqx : qx < w)
    (hput : pixel b qx =
      if qx % d = px % d then v else pixel (Memory.read blank m (py * (w / d) + px / d)) qx) :
    pixel (Memory.read blank (Memory.write blank m (py * (w / d) + px / d) b) (qy * (w / d) + qx / d)) qx =
      if (qx, qy) = (px, py) then v else pixel (Memory.read blank m (qy * (w / d) + qx / d)) qx := by
  rw [read_write _ _ _ hwf]
  by_cases hbyte : qy * (w / d) + qx / d = py * (w / d) + px / d
  · obtain ⟨rfl, hgroup⟩ := pixelIndex_inj hd hpx hqx hbyte
    have hplace : qx % d = px % d ↔ (qx, qy) = (px, qy) := by
      rw [Prod.mk.injEq, and_iff_left rfl]
      refine ⟨fun hmod => ?_, fun heq => heq ▸ rfl⟩
      rw [← Nat.div_add_mod qx d, hgroup, hmod, Nat.div_add_mod]
    rw [if_pos hbyte, hput, hbyte]
    simp only [hplace]
  · have hne : (qx, qy) ≠ (px, py) := fun heq => hbyte (by cases heq; rfl)
    rw [if_neg hbyte, if_neg hne]

end Layout

/-! #### MONO -/

theorem pixelMask_getLsbD (px qx : Nat) : (pixelMask px).getLsbD (7 - qx % 8) = decide (qx % 8 = px % 8) := by
  have hp := Nat.mod_lt px (by decide : 0 < 8)
  have hq := Nat.mod_lt qx (by decide : 0 < 8)
  unfold pixelMask
  generalize px % 8 = a at *
  generalize qx % 8 = b at *
  revert a b
  decide

/-- The pixel's bit becomes 1 for a nonzero v and 0 for 0, every other bit stays (30 R118, 43 R231). -/
theorem putMonoPixel_getLsbD (old : Byte) (px qx : Nat) (v : BitVec 3) :
    (putMonoPixel old px v).getLsbD (7 - qx % 8) =
      if qx % 8 = px % 8 then decide (v ≠ 0) else old.getLsbD (7 - qx % 8) := by
  have hi : 7 - qx % 8 < 8 := by omega
  unfold putMonoPixel
  split
  · next hv =>
    rw [BitVec.getLsbD_or, pixelMask_getLsbD, decide_eq_true hv]
    by_cases hplace : qx % 8 = px % 8 <;> simp [hplace]
  · next hv =>
    rw [BitVec.getLsbD_and, BitVec.getLsbD_not, pixelMask_getLsbD, decide_eq_false hv]
    by_cases hplace : qx % 8 = px % 8 <;> simp [hplace, hi]

/-! #### GRAY -/

theorem putGrayPixel_even (old : Byte) {px : Nat} (v : BitVec 3) (h : px % 2 = 0) :
    hiNibble (putGrayPixel old px v) = v.zeroExtend 4 ∧ loNibble (putGrayPixel old px v) = loNibble old := by
  rw [putGrayPixel, if_pos h]
  revert old v
  decide

theorem putGrayPixel_odd (old : Byte) {px : Nat} (v : BitVec 3) (h : ¬px % 2 = 0) :
    loNibble (putGrayPixel old px v) = v.zeroExtend 4 ∧ hiNibble (putGrayPixel old px v) = hiNibble old := by
  rw [putGrayPixel, if_neg h]
  revert old v
  decide

/-- The pixel's nibble becomes `0b0vvv`, the other nibble stays (30 R118, 43 R231). -/
theorem nibbleAt_putGrayPixel (old : Byte) (px qx : Nat) (v : BitVec 3) :
    nibbleAt (putGrayPixel old px v) qx = if qx % 2 = px % 2 then v.zeroExtend 4 else nibbleAt old qx := by
  unfold nibbleAt
  by_cases hp : px % 2 = 0
  · obtain ⟨hself, hother⟩ := putGrayPixel_even old v hp
    by_cases hq : qx % 2 = 0
    · rw [if_pos hq, if_pos (hq.trans hp.symm), hself]
    · rw [if_neg hq, if_neg (by omega), if_neg hq, hother]
  · obtain ⟨hself, hother⟩ := putGrayPixel_odd old v hp
    by_cases hq : qx % 2 = 0
    · rw [if_pos hq, if_neg (by omega), if_pos hq, hother]
    · rw [if_neg hq, if_pos (by omega), hself]

/-! #### The command -/

section Setpix

variable {s : State} {x y : Int} {px py : Nat} (v : BitVec 3) (hok : configOk s.cfg = true)
  (hin : inExtent s.cfg s.rot x y = true) (hp : physicalPixel s.cfg s.rot x y = (px, py))
include hok hin hp

theorem exec_setpix_mono (hm : s.mode = .mono) :
    exec (.setpix x y v) s = .next { s with
      fb1 := Memory.write monoBlank s.fb1 (fb1Index s.cfg px py)
        (putMonoPixel (fb1Read s (fb1Index s.cfg px py)) px v) } := by
  obtain ⟨hpx, hpy⟩ := physicalPixel_lt hin
  simp only [hp] at hpx hpy
  simp only [exec, execSetpix, hin, if_true, hm, hp, fb1Write]
  exact if_pos (pixelIndex_lt (eight_dvd_w hok) hpx hpy)

theorem exec_setpix_gray (hm : s.mode = .gray) :
    exec (.setpix x y v) s = .next { s with
      fb3 := Memory.write (grayBlank s.cfg) s.fb3 (fb3Index s.cfg px py)
        (putGrayPixel (fb3Read s (fb3Index s.cfg px py)) px v) } := by
  obtain ⟨hpx, hpy⟩ := physicalPixel_lt hin
  simp only [hp] at hpx hpy
  simp only [exec, execSetpix, hin, if_true, hm, hp, fb3Write]
  exact if_pos (pixelIndex_lt (two_dvd_w hok) hpx hpy)

end Setpix

/-- Settles O23: the byte written is the pixel's, and `putMonoPixel` changes the pixel's bit of it only. -/
theorem setpixMonoWritesOnePixel : Obligations.SetpixMonoWritesOnePixel := by
  unfold Obligations.SetpixMonoWritesOnePixel
  intro s x y v hok hwf hmode hin
  obtain ⟨hpx, -⟩ := physicalPixel_lt hin
  refine ⟨_, exec_setpix_mono v hok hin rfl hmode, rfl, fun i hi => read_write_other _ hi, fun qx qy hqx _ => ?_⟩
  exact pixel_write (eight_dvd_w hok) hpx (fun b column => b.getLsbD (7 - column % 8)) hwf hqx
    (putMonoPixel_getLsbD _ _ qx v)

/-- Settles O24: the byte written is the pixel's, and `putGrayPixel` changes the pixel's nibble of it only. -/
theorem setpixGrayWritesOnePixel : Obligations.SetpixGrayWritesOnePixel := by
  unfold Obligations.SetpixGrayWritesOnePixel
  intro s x y v hok hwf hmode hin
  obtain ⟨hpx, -⟩ := physicalPixel_lt hin
  refine ⟨_, exec_setpix_gray v hok hin rfl hmode, rfl, fun i hi => read_write_other _ hi, fun qx qy hqx _ => ?_⟩
  exact pixel_write (two_dvd_w hok) hpx nibbleAt hwf hqx
    (nibbleAt_putGrayPixel _ _ qx v)

end Sys2Proof.Machine

/-! ### Fields of a word (30 R117) -/

namespace Sys2Proof

@[simp] theorem field_or (v w : Word) (lo n : Nat) : field (v ||| w) lo n = field v lo n ||| field w lo n :=
  BitVec.extractLsb'_or

theorem field_getLsbD (w : Word) (lo n k : Nat) : (field w lo n).getLsbD k = (decide (k < n) && w.getLsbD (lo + k)) :=
  BitVec.getLsbD_extractLsb' lo n w k

theorem place_getLsbD {n : Nat} (lo : Nat) (b : BitVec n) (k : Nat) :
    (place lo b).getLsbD k = (decide (k < 32) && decide (lo ≤ k) && b.getLsbD (k - lo)) := by
  simp only [place, BitVec.getLsbD_shiftLeft, BitVec.truncate_eq_setWidth, BitVec.getLsbD_setWidth]
  by_cases hlo : lo ≤ k
  · grind
  · simp [hlo]

/-- A field of a field of `w` is a field of `w`. -/
theorem field_extractLsb' (w : Word) {lo n i m : Nat} (h : i + m ≤ n) :
    (field w lo n).extractLsb' i m = field w (lo + i) m := by
  refine BitVec.eq_of_getLsbD_eq fun k hk => ?_
  rw [BitVec.getLsbD_extractLsb', field_getLsbD, field_getLsbD, Nat.add_assoc]
  simp [hk, show i + k < n by omega]

@[simp] theorem field_place {n lo : Nat} (h : lo + n ≤ 32) (b : BitVec n) : field (place lo b) lo n = b := by
  refine BitVec.eq_of_getLsbD_eq fun k hk => ?_
  rw [field_getLsbD, place_getLsbD]
  simp [hk, show lo + k < 32 by omega]

/-- What is placed beside a field does not show in it. -/
@[simp] theorem field_place_of_disjoint {n lo m i : Nat} (h : lo + n ≤ i ∨ i + m ≤ lo) (b : BitVec n) :
    field (place lo b) i m = 0 := by
  refine BitVec.eq_of_getLsbD_eq fun k hk => ?_
  rw [field_getLsbD, place_getLsbD]
  by_cases hlo : lo ≤ i + k
  · have hbeyond : n ≤ i + k - lo := by omega
    simp [BitVec.getLsbD_of_ge b _ hbeyond]
  · simp [hlo]

/-- A field put back where it was taken is the word's part under the field's mask. -/
theorem place_field (w : Word) (lo n : Nat) : place lo (field w lo n) = w &&& place lo (BitVec.allOnes n) := by
  refine BitVec.eq_of_getLsbD_eq fun k hk => ?_
  rw [BitVec.getLsbD_and, place_getLsbD, place_getLsbD, field_getLsbD, BitVec.getLsbD_allOnes]
  by_cases hlo : lo ≤ k
  · simp [hk, hlo, Bool.and_comm]
  · simp [hlo]

/-! ### The operands' codes (30 R116, R117) -/

theorem coordFits_iff (x : Int) : coordFits x = true ↔ -2048 ≤ x ∧ x ≤ 2047 := by simp [coordFits]

@[simp] theorem coordOf_coordBits {x : Int} (h : coordFits x = true) : coordOf (coordBits x) = x := by
  obtain ⟨hlo, hhi⟩ := (coordFits_iff x).mp h
  exact BitVec.toInt_ofInt_eq_self (by decide) hlo (by omega)

@[simp] theorem coordBits_coordOf (b : BitVec 12) : coordBits (coordOf b) = b := BitVec.ofInt_toInt

@[simp] theorem coordFits_coordOf (b : BitVec 12) : coordFits (coordOf b) = true :=
  (coordFits_iff _).mpr ⟨b.le_toInt, Int.le_of_lt_add_one b.toInt_lt⟩

@[simp] theorem chipOf_chipBit (c : Chip) : chipOf (chipBit c) = c := by cases c <;> rfl

@[simp] theorem chipBit_chipOf (b : BitVec 1) : chipBit (chipOf b) = b := by revert b; decide

@[simp] theorem toFin_pinBits (p : Pin) : (pinBits p).toFin = p := rfl

@[simp] theorem pinBits_toFin (b : BitVec 4) : pinBits b.toFin = b := rfl

@[simp] theorem pinModeOf_pinModeBits (mode : PinMode) : pinModeOf (pinModeBits mode) = some mode := by
  cases mode <;> rfl

theorem pinModeOf_eq_some_iff (b : BitVec 2) (mode : PinMode) : pinModeOf b = some mode ↔ pinModeBits mode = b := by
  revert b; cases mode <;> decide

theorem pinModeOf_eq_none_iff (b : BitVec 2) : pinModeOf b = none ↔ b = 3 := by revert b; decide

/-- SETMODE's field m (30 R113). -/
@[simp] theorem modeOf_ofBool (m : Mode) :
    (if BitVec.ofBool (decide (m = .gray)) = 0#1 then Mode.mono else .gray) = m := by
  cases m <;> rfl

theorem ofBool_modeOf (b : BitVec 1) : BitVec.ofBool (decide ((if b = 0 then Mode.mono else .gray) = .gray)) = b := by
  revert b; decide

/-- PINWRITE's field l (30 R116). -/
@[simp] theorem ofBool_eq_one (level : Bool) : decide (BitVec.ofBool level = 1#1) = level := by cases level <;> rfl

theorem ofBool_decide_eq_one (b : BitVec 1) : BitVec.ofBool (decide (b = 1)) = b := by revert b; decide

/-! ### The opcode map (30 R119, R120) -/

/-- The opcode field cmd[31:27] of a defined opcode (30 R119). -/
def Opcode.code : Opcode → BitVec 5
  | .nop => 0x00
  | .setpix => 0x01
  | .clear => 0x02
  | .setmode => 0x03
  | .setrot => 0x04
  | .display => 0x05
  | .partialRefresh => 0x06
  | .pwron => 0x07
  | .pwroff => 0x08
  | .vstart => 0x09
  | .hstart => 0x0A
  | .hdata => 0x0B
  | .vend => 0x0C
  | .pinmode => 0x0D
  | .pinwrite => 0x0E
  | .pinread => 0x0F

/-- The lowest bit and the length of the one field that the opcode's format reserves (30 R111-R116). -/
def Opcode.reservedAt : Opcode → Nat × Nat
  | .setpix => (0, 0)
  | .setmode => (1, 26)
  | .setrot => (2, 25)
  | .hstart | .hdata => (8, 19)
  | .pinmode => (2, 20)
  | .pinwrite => (1, 21)
  | .pinread => (0, 22)
  | .nop | .clear | .display | .partialRefresh | .pwron | .pwroff | .vstart | .vend => (0, 27)

/-- The reserved bits of a word under an opcode. -/
def Opcode.reservedBits (op : Opcode) (w : Word) : BitVec op.reservedAt.2 := field w op.reservedAt.1 op.reservedAt.2

/-- Each row of the map fixes the opcode field and the reserved field, and nothing else. -/
theorem opRow_eq (op : Opcode) :
    opRow op = ⟨place 27 op.code,
      place 27 (BitVec.allOnes 5) ||| place op.reservedAt.1 (BitVec.allOnes op.reservedAt.2)⟩ := by
  cases op <;> decide

theorem Opcode.reservedAt_le (op : Opcode) : op.reservedAt.1 + op.reservedAt.2 ≤ 27 := by cases op <;> decide

/-- A word belongs to a row when it has the row's opcode and 0 in every reserved bit. -/
theorem row_iff (op : Opcode) (w : Word) :
    w &&& (opRow op).mask = (opRow op).pattern ↔ field w 27 5 = op.code ∧ op.reservedBits w = 0 := by
  have hle := op.reservedAt_le
  rw [opRow_eq, BitVec.and_or_distrib_left, ← place_field, ← place_field]
  constructor
  · intro h
    have hcode := congrArg (field · 27 5) h
    have hzero := congrArg (field · op.reservedAt.1 op.reservedAt.2) h
    simp (disch := omega) only [field_or, field_place, field_place_of_disjoint] at hcode hzero
    exact ⟨by simpa using hcode, (by simpa using hzero : field w _ _ = 0)⟩
  · rintro ⟨hcode, hzero⟩
    rw [hcode, show field w _ _ = 0 from hzero]
    simp [place]

/-- A row's pattern is 0 below the opcode field. -/
@[simp] theorem field_pattern (op : Opcode) {lo n : Nat} (h : lo + n ≤ 27) : field (opRow op).pattern lo n = 0 := by
  rw [opRow_eq]
  exact field_place_of_disjoint (.inr h) op.code

/-- A word is its row's pattern and its bits outside the row's mask. -/
theorem pattern_or_and {row : OpRow} {w : Word} (hrow : w &&& row.mask = row.pattern) (rest : Word)
    (hrest : row.mask ||| rest = BitVec.allOnes 32) : row.pattern ||| w &&& rest = w := by
  rw [← hrow, ← BitVec.and_or_distrib_left, hrest, BitVec.and_allOnes]

theorem reservedRow_pattern : reservedRow.pattern = place 31 1#1 := by decide

/-! ### The decoder, case by case (30 R120) -/

/-- A word of the reserved opcode space is the command `reserved`. -/
theorem decode_reserved {w : Word} (h : field w 31 1 = 1) : decode w = .command (.reserved (field w 0 31)) := if_pos h

/-- The opcode field is reserved or one of the sixteen codes. -/
theorem field_opcode_cases (w : Word) : field w 31 1 = 1 ∨ ∃ op : Opcode, field w 27 5 = op.code := by
  have h : ∀ b : BitVec 5, b.extractLsb' 4 1 = 1 ∨ b = (Opcode.ofBits (b.extractLsb' 0 4)).code := by decide
  rw [← field_extractLsb' w (lo := 27) (n := 5) (i := 4) (by decide)]
  exact (h _).imp_right fun hop => ⟨_, hop⟩

/-- A word with a defined opcode is held against its row. -/
theorem decode_defined {w : Word} {op : Opcode} (h : field w 27 5 = op.code) :
    decode w =
      if w &&& (opRow op).mask = (opRow op).pattern then decodeOperands op w else .rejected .reservedBit := by
  have htop : field w 31 1 = 0 := by
    rw [← field_extractLsb' w (lo := 27) (n := 5) (i := 4) (by decide), h]
    cases op <;> rfl
  have hop : Opcode.ofBits (field w 27 4) = op := by
    rw [← field_extractLsb' w (lo := 27) (n := 5) (i := 0) (by decide), h]
    cases op <;> rfl
  unfold decode
  rw [htop, if_neg (by decide), hop]

theorem decode_of_row {w : Word} {op : Opcode} (h : w &&& (opRow op).mask = (opRow op).pattern) :
    decode w = decodeOperands op w := by
  rw [decode_defined ((row_iff op w).mp h).1, if_pos h]

/-- The only words with a command: those of the reserved space and those of a row whose operands are read. -/
theorem decode_eq_command {w : Word} {i : Instr} (h : decode w = .command i) :
    (field w 31 1 = 1 ∧ .reserved (field w 0 31) = i) ∨
      ∃ op, w &&& (opRow op).mask = (opRow op).pattern ∧ decodeOperands op w = .command i := by
  obtain hres | ⟨op, hop⟩ := field_opcode_cases w
  · exact .inl ⟨hres, Decoded.command.inj ((decode_reserved hres).symm.trans h)⟩
  · rw [decode_defined hop] at h
    split at h
    · next hrow => exact .inr ⟨op, hrow, h⟩
    · cases h

/-! ### Decoding an encoding (30 R130) -/

/-- Settles O1: the encoder's word belongs to its command's row, and each operand is read back from its field. -/
theorem decodeOfEncodeIsIdentity : Obligations.DecodeOfEncodeIsIdentity := by
  unfold Obligations.DecodeOfEncodeIsIdentity
  intro i hwf
  cases i with
  | nop => exact decode_of_row Laws.RowMatch.nop
  | setpix x y v =>
    obtain ⟨hx, hy⟩ : coordFits x = true ∧ coordFits y = true := by simpa [Instr.WellFormed] using hwf
    rw [decode_of_row (op := .setpix) (Laws.RowMatch.setpix x y v)]
    simp [decodeOperands, encode, hx, hy]
  | clear => exact decode_of_row Laws.RowMatch.clear
  | setmode m =>
    rw [decode_of_row (op := .setmode) (Laws.RowMatch.setmode m)]
    simp [decodeOperands, encode]
  | setrot r =>
    rw [decode_of_row (op := .setrot) (Laws.RowMatch.setrot r)]
    simp [decodeOperands, encode]
  | display => exact decode_of_row Laws.RowMatch.display
  | partialRefresh => exact decode_of_row Laws.RowMatch.partialRefresh
  | pwron => exact decode_of_row Laws.RowMatch.pwron
  | pwroff => exact decode_of_row Laws.RowMatch.pwroff
  | vstart => exact decode_of_row Laws.RowMatch.vstart
  | hstart d =>
    rw [decode_of_row (op := .hstart) (Laws.RowMatch.hstart d)]
    simp [decodeOperands, encode]
  | hdata d =>
    rw [decode_of_row (op := .hdata) (Laws.RowMatch.hdata d)]
    simp [decodeOperands, encode]
  | vend => exact decode_of_row Laws.RowMatch.vend
  | pinmode c p mode =>
    rw [decode_of_row (op := .pinmode) (Laws.RowMatch.pinmode c p mode)]
    simp [decodeOperands, encode]
  | pinwrite c p level =>
    rw [decode_of_row (op := .pinwrite) (Laws.RowMatch.pinwrite c p level)]
    simp [decodeOperands, encode]
  | pinread c p =>
    rw [decode_of_row (op := .pinread) (Laws.RowMatch.pinread c p)]
    simp [decodeOperands, encode]
  | reserved low =>
    have htop : field (encode (.reserved low)) 31 1 = 1 := by simp [encode, reservedRow_pattern]
    rw [decode_reserved htop]
    simp [encode, reservedRow_pattern]

/-! ### Encoding a decoding (30 R110, R117) -/

/-- The decoder gives no coordinate outside its field. -/
theorem wellFormed_of_decodeOperands {op : Opcode} {w : Word} {i : Instr} (h : decodeOperands op w = .command i) :
    i.WellFormed = true := by
  cases op with
  | setpix =>
    cases h
    simp [Instr.WellFormed]
  | pinmode =>
    simp only [decodeOperands] at h
    split at h <;> cases h
    rfl
  | _ => cases h; rfl

/-- Each operand's code is put back into its field, and the row's mask and the operands' fields cover the word. -/
theorem encode_of_decodeOperands {op : Opcode} {w : Word} {i : Instr}
    (hrow : w &&& (opRow op).mask = (opRow op).pattern) (h : decodeOperands op w = .command i) : encode i = w := by
  cases op with
  | nop | clear | display | partialRefresh | pwron | pwroff | vstart | vend =>
    cases h
    exact hrow.symm.trans BitVec.and_allOnes
  | setpix =>
    cases h
    simp only [encode, coordBits_coordOf, place_field, BitVec.or_assoc, ← BitVec.and_or_distrib_left]
    exact pattern_or_and hrow _ (by decide)
  | setmode =>
    cases h
    simp only [encode, ofBool_modeOf, place_field]
    exact pattern_or_and hrow _ (by decide)
  | setrot | hstart | hdata =>
    cases h
    simp only [encode, place_field]
    exact pattern_or_and hrow _ (by decide)
  | pinmode =>
    simp only [decodeOperands] at h
    split at h
    · next mode hmode =>
      cases h
      rw [pinModeOf_eq_some_iff] at hmode
      simp only [encode, chipBit_chipOf, pinBits_toFin, hmode, place_field, BitVec.or_assoc,
        ← BitVec.and_or_distrib_left]
      exact pattern_or_and hrow _ (by decide)
    · cases h
  | pinwrite =>
    cases h
    simp only [encode, chipBit_chipOf, pinBits_toFin, ofBool_decide_eq_one, place_field, BitVec.or_assoc,
      ← BitVec.and_or_distrib_left]
    exact pattern_or_and hrow _ (by decide)
  | pinread =>
    cases h
    simp only [encode, chipBit_chipOf, pinBits_toFin, place_field, BitVec.or_assoc, ← BitVec.and_or_distrib_left]
    exact pattern_or_and hrow _ (by decide)

theorem encode_reserved {w : Word} (h : field w 31 1 = 1) : encode (.reserved (field w 0 31)) = w := by
  have hrow : w &&& reservedRow.mask = reservedRow.pattern := by
    rw [show reservedRow.mask = place 31 (BitVec.allOnes 1) by decide, ← place_field, h]
    decide
  simp only [encode, place_field]
  exact pattern_or_and hrow _ (by decide)

/-- Settles O2: the row fixes the bits under its mask, and the operands are all the others. -/
theorem encodeOfDecodeIsIdentity : Obligations.EncodeOfDecodeIsIdentity := by
  unfold Obligations.EncodeOfDecodeIsIdentity
  intro w i h
  obtain ⟨hres, rfl⟩ | ⟨op, hrow, hop⟩ := decode_eq_command h
  · exact ⟨rfl, encode_reserved hres⟩
  · exact ⟨wellFormed_of_decodeOperands hop, encode_of_decodeOperands hrow hop⟩

/-- Settles O4: the encoder prints the table, so O1 reads it back. -/
theorem encodingExamplesOfTheSpec : Obligations.EncodingExamplesOfTheSpec := by
  unfold Obligations.EncodingExamplesOfTheSpec
  intro e he
  obtain ⟨hwf, henc⟩ : e.1.WellFormed = true ∧ encode e.1 = e.2 := by
    revert e
    decide
  exact ⟨henc ▸ decodeOfEncodeIsIdentity e.1 hwf, henc⟩

/-! ### The words the decoder rejects (30 R120, R122) -/

theorem decodeOperands_rejects_iff (op : Opcode) (w : Word) :
    (∃ e, decodeOperands op w = .rejected e) ↔ op = .pinmode ∧ field w 0 2 = 3 := by
  cases op with
  | pinmode =>
    rw [← pinModeOf_eq_none_iff]
    simp only [decodeOperands]
    cases pinModeOf (field w 0 2) <;> simp
  | _ => simp [decodeOperands]

/-- For a defined opcode, R122's words are those with a 1 in the reserved field, and PINMODE's with mode 3. -/
theorem reservedFieldWord_iff {w : Word} {op : Opcode} (h : field w 27 5 = op.code) :
    Machine.ReservedFieldWord w ↔ op.reservedBits w ≠ 0 ∨ op = .pinmode ∧ field w 0 2 = 3 := by
  unfold Machine.ReservedFieldWord
  rw [h]
  cases op <;> simp [Opcode.code, Opcode.reservedBits, Opcode.reservedAt, BitVec.of_length_zero]

/-- A reserved opcode has no reserved field (30 R121). -/
theorem not_reservedFieldWord {w : Word} (h : field w 31 1 = 1) : ¬Machine.ReservedFieldWord w := by
  have hcode : ∀ b : BitVec 5, b.extractLsb' 4 1 = 1 → 0x10 ≤ b.toNat := by decide
  have hop := hcode (field w 27 5) (by rw [field_extractLsb' w (by decide)]; exact h)
  unfold Machine.ReservedFieldWord
  simp only [List.mem_cons, List.not_mem_nil, or_false]
  omega

/-- Settles O3: a word with a defined opcode is rejected by its row when a reserved bit is 1, and else by its operands. -/
theorem decoderRejectsExactlyReservedFields : Obligations.DecoderRejectsExactlyReservedFields := by
  unfold Obligations.DecoderRejectsExactlyReservedFields
  intro w
  obtain hres | ⟨op, hop⟩ := field_opcode_cases w
  · simp [decode_reserved hres, not_reservedFieldWord hres]
  · rw [reservedFieldWord_iff hop]
    simp only [decode_defined hop, row_iff, hop, true_and]
    by_cases hzero : op.reservedBits w = 0
    · rw [if_pos hzero, decodeOperands_rejects_iff]
      simp [hzero]
    · rw [if_neg hzero]
      exact iff_of_true ⟨_, rfl⟩ (.inl hzero)

end Sys2Proof

/-! ### Commands that only record an error or write one field (30 R121, R122; 40 R150-R152; 43 R231, R234) -/

namespace Sys2Proof.Machine

/-- A block that is neither halted nor busy runs the word written to CMD (40 R150). -/
theorem step_ready {s : State} {v : Word} {rest : List HostInput} (h : Ready s) (hp : CmdPending s v rest) :
    step s = endCommand (execute (decode v) { s with hostIn := rest, busy := true }) := by
  obtain ⟨hok, hfault, hbusy⟩ := h
  rw [step_cmd hok hp]
  exact (if_neg (by simp [hfault])).trans (if_neg (by simp [hbusy]))

/-- A word that only records an error leaves the block with the error's flag and code: BUSY is 0 again. -/
theorem step_recordError {s : State} {v : Word} {rest : List HostInput} (h : Ready s) (hp : CmdPending s v rest)
    {e : ErrCode} (he : ∀ t, execute (decode v) t = .next (recordError e t)) :
    step s = .next (recordError e { s with hostIn := rest }) := by
  obtain ⟨-, -, hbusy⟩ := id h
  rw [step_ready h hp, he]
  obtain ⟨⟩ := s
  cases hbusy
  cases e <;> rfl

/-- Settles O8: the decoder rejects the word, and `execute` records code 2. -/
theorem reservedFieldOnlyRecordsCodeTwo : Obligations.ReservedFieldOnlyRecordsCodeTwo := by
  unfold Obligations.ReservedFieldOnlyRecordsCodeTwo
  intro s v rest hready hp hword
  obtain ⟨e, he⟩ := (decoderRejectsExactlyReservedFields v).mpr hword
  exact step_recordError hready hp (e := .reservedField) fun t => by rw [he]; rfl

/-- Settles O7: the word decodes to `reserved`, which records code 1. -/
theorem reservedOpcodeOnlyRecordsCodeOne : Obligations.ReservedOpcodeOnlyRecordsCodeOne := by
  unfold Obligations.ReservedOpcodeOnlyRecordsCodeOne
  intro s v rest hready hp htop
  have hres : field v 31 1 = 1 := extractLsb'_eq_of_getLsbD fun i hi => by
    obtain rfl : i = 0 := by omega
    exact htop
  exact step_recordError hready hp (e := .reservedOpcode) fun t => by rw [decode_reserved hres]; rfl

theorem logicalExtent_eq_panel (c : Config) {r : BitVec 2} (h : r = 0 ∨ r = 2) : logicalExtent c r = (c.w, c.h) := by
  obtain rfl | rfl := h <;> rfl

theorem logicalExtent_eq_transposed (c : Config) {r : BitVec 2} (h : r = 1 ∨ r = 3) :
    logicalExtent c r = (c.h, c.w) := by
  obtain rfl | rfl := h <;> rfl

/-- A point outside the extent leaves the state as it is (43 R231). -/
theorem exec_setpix_outside {s : State} {x y : Int} (v : BitVec 3) (h : ¬inExtent s.cfg s.rot x y = true) :
    exec (.setpix x y v) s = .next s := if_neg h

/-- Settles O25: each of the four ways out of the extent fails one of the range check's comparisons. -/
theorem setpixOutsideTheExtentIsDiscarded : Obligations.SetpixOutsideTheExtentIsDiscarded := by
  unfold Obligations.SetpixOutsideTheExtentIsDiscarded
  intro s x y v hout
  refine exec_setpix_outside v fun hin => ?_
  obtain ⟨hx, hy, hw, hh⟩ := (inExtent_iff s.cfg s.rot x y).mp hin
  obtain hneg | hneg | ⟨hrot, hpast⟩ | ⟨hrot, hpast⟩ := hout
  · omega
  · omega
  · rw [logicalExtent_eq_panel s.cfg hrot] at hw hh
    omega
  · rw [logicalExtent_eq_transposed s.cfg hrot] at hw hh
    omega

/-- Settles O28: each meaning is the field update the statement names. -/
theorem nopSetrotAndReservedComplete : Obligations.NopSetrotAndReservedComplete := by
  unfold Obligations.NopSetrotAndReservedComplete
  intro s r low
  exact ⟨rfl, rfl, rfl⟩

end Sys2Proof.Machine

/-! ### The three answers of the host port to a CMD write (40 R150, R151; 60 R362, R366) -/

namespace Sys2Proof.Machine

/-- A halted block does nothing with a CMD write, busy or not (40 R150, 60 R366). -/
theorem onCmdWrite_halted {s : State} (v : Word) (h : s.fault = true) : onCmdWrite v s = .next s := if_pos h

/-- A busy block answers a CMD write with code 3 only (40 R150, 60 R362). -/
theorem onCmdWrite_busy {s : State} (v : Word) (hfault : s.fault = false) (hbusy : s.busy = true) :
    onCmdWrite v s = .next (recordError .busy s) :=
  (if_neg (by simp [hfault])).trans (if_pos hbusy)

/-- Settles O5: the block is ready for the word, and to execute a decoded command is its meaning. -/
theorem stepRunsTheDecodedCommand : Obligations.StepRunsTheDecodedCommand := by
  unfold Obligations.StepRunsTheDecodedCommand
  intro s v rest i hready hp hdec
  rw [step_ready hready hp, hdec]
  rfl

/-- Settles O6: `on_cmd_write` asks for FAULT first and for BUSY next, before it decodes the word. -/
theorem haltedAndBusyBlocksDropCommands : Obligations.HaltedAndBusyBlocksDropCommands := by
  unfold Obligations.HaltedAndBusyBlocksDropCommands
  intro s v rest hok hp
  rw [step_cmd hok hp]
  exact ⟨fun hfault => onCmdWrite_halted v hfault, fun hfault hbusy => onCmdWrite_busy v hfault hbusy⟩

end Sys2Proof.Machine

/-! ### The pin commands (41 R171-R178; 60 R366, R367) -/

namespace Sys2Proof.Machine

/-! #### Which branch a pin command takes -/

theorem namesCorePin_iff (cfg : Config) (c : Chip) (p : Pin) :
    namesCorePin cfg c p = true ↔ c = .x0 ∧ p ∈ corePins cfg := by simp [namesCorePin]

section Branches

variable {s : State} {c : Chip} {p : Pin}

theorem exec_pinmode_core (mode : PinMode) (h : namesCorePin s.cfg c p = true) :
    exec (.pinmode c p mode) s = .next (recordError .corePin s) := congrArg Host.Outcome.next (if_pos h)

theorem exec_pinwrite_core (l : Bool) (h : namesCorePin s.cfg c p = true) :
    exec (.pinwrite c p l) s = .next (recordError .corePin s) := congrArg Host.Outcome.next (if_pos h)

theorem exec_pinmode_absent (mode : PinMode) (h : ¬namesCorePin s.cfg c p = true) (hx : ¬xpresent s c = true) :
    exec (.pinmode c p mode) s = .next (recordError .absent s) :=
  congrArg Host.Outcome.next ((if_neg h).trans (if_neg hx))

theorem exec_pinwrite_absent (l : Bool) (h : ¬namesCorePin s.cfg c p = true) (hx : ¬xpresent s c = true) :
    exec (.pinwrite c p l) s = .next (recordError .absent s) :=
  congrArg Host.Outcome.next ((if_neg h).trans (if_neg hx))

theorem exec_pinread_absent (p : Pin) (hx : ¬xpresent s c = true) :
    exec (.pinread c p) s = .next (recordError .absent s) := congrArg Host.Outcome.next (if_neg hx)

theorem exec_pinmode_present (mode : PinMode) (h : ¬namesCorePin s.cfg c p = true) (hx : xpresent s c = true) :
    exec (.pinmode c p mode) s = .next (pinModeSet c p mode s) :=
  congrArg Host.Outcome.next ((if_neg h).trans (if_pos hx))

theorem exec_pinwrite_present (l : Bool) (h : ¬namesCorePin s.cfg c p = true) (hx : xpresent s c = true) :
    exec (.pinwrite c p l) s = .next (pinOutSet c p l s) :=
  congrArg Host.Outcome.next ((if_neg h).trans (if_pos hx))

end Branches

/-- Settles O32: the core-pin check stands before the presence check, and each records its own code. -/
theorem pinCommandErrors : Obligations.PinCommandErrors := by
  unfold Obligations.PinCommandErrors
  intro s c p mode l
  refine ⟨fun hc hp => ?_, fun hcore hx => ?_, fun hx => exec_pinread_absent p (by simp [hx])⟩
  · have hcore := (namesCorePin_iff s.cfg c p).mpr ⟨hc, hp⟩
    exact ⟨exec_pinmode_core mode hcore, exec_pinwrite_core l hcore⟩
  · rw [← namesCorePin_iff] at hcore
    exact ⟨exec_pinmode_absent mode hcore (by simp [hx]), exec_pinwrite_absent l hcore (by simp [hx])⟩

/-! #### PINMODE (41 R172, R178) -/

theorem gppuOf_inj_port {p q : Pin} (h : gppuOf p = gppuOf q) : p.val / 8 = q.val / 8 := by
  simp [gppuOf] at h; omega

/-- The new GPPU byte holds the mode's pull-up at the pin's bit and the old byte at every other bit (41 R178). -/
theorem pinModeBytes_pullup_getLsbD (mode : PinMode) (p q : Pin) (dir pu : Byte) :
    (pinModeBytes mode (pinMask p) dir pu).2.getLsbD (q.val % 8) =
      if p.val % 8 = q.val % 8 then decide (mode = .inputPullup) else pu.getLsbD (q.val % 8) := by
  have hq : q.val % 8 < 8 := Nat.mod_lt _ (by decide)
  by_cases hb : p.val % 8 = q.val % 8 <;> cases mode <;> simp [pinModeBytes, pinMask_getElem, hb, hq]

/-- PIN_MODE_SET sets the pull-up of its pin and of no other (41 R178). -/
theorem pinPullup_pinModeSet (c c' : Chip) (p q : Pin) (mode : PinMode) (s : State) :
    pinPullup (pinModeSet c p mode s) c' q =
      if c' = c ∧ q = p then decide (mode = .inputPullup) else pinPullup s c' q := by
  unfold pinPullup pinBitIn
  rw [shadowGet_pinModeSet]
  by_cases hreg : c' = c ∧ gppuOf q = gppuOf p
  · obtain ⟨rfl, hport⟩ := hreg
    have hpin : q = p ↔ p.val % 8 = q.val % 8 :=
      ⟨fun h => by rw [h], fun h => pin_eq_of (gppuOf_inj_port hport) h.symm⟩
    simp [hport, hpin, pinModeBytes_pullup_getLsbD]
  · have hpin : ¬(c' = c ∧ q = p) := fun h => hreg ⟨h.1, by rw [h.2]⟩
    rw [if_neg hreg, if_neg hpin, if_neg fun h => iodirOf_ne_gppuOf p q h.2.symm]

/-- PIN_MODE_SET pushes each of its two bytes exactly when it changes, IODIR first (41 R175, R178). -/
theorem pinModeSet_trace (c : Chip) (p : Pin) (mode : PinMode) (s : State) :
    (pinModeSet c p mode s).trace = s.trace ++
      (if shadowGet (pinModeSet c p mode s) c (iodirOf p) = shadowGet s c (iodirOf p) then []
       else [.xw c (iodirOf p) (shadowGet (pinModeSet c p mode s) c (iodirOf p))]) ++
      (if shadowGet (pinModeSet c p mode s) c (gppuOf p) = shadowGet s c (gppuOf p) then []
       else [.xw c (gppuOf p) (shadowGet (pinModeSet c p mode s) c (gppuOf p))]) := by
  have hne : gppuOf p ≠ iodirOf p := (iodirOf_ne_gppuOf p p).symm
  rw [shadowGet_pinModeSet, shadowGet_pinModeSet]
  simp only [pinModeSet, shadowSet, List.foldl_cons, List.foldl_nil, shadowSet1_trace, shadowGet_shadowSet1,
    hne, hne.symm, true_and, if_true, if_false, eq_comm (a := shadowGet s _ _)]

/-- Settles O29: the two bytes PIN_MODE_SET writes differ from the old ones at the pin's bit only. -/
theorem pinmodeSetsOnePin : Obligations.PinmodeSetsOnePin := by
  unfold Obligations.PinmodeSetsOnePin
  intro s c p mode hcore hx
  refine ⟨_, exec_pinmode_present mode (by simp [hcore]) hx, pinFrame_pinModeSet c p mode s, fun q => ?_, fun q => ?_,
    fun a hdir hpu => ?_, pinModeSet_trace c p mode s⟩
  · simp [pinIsInput_pinModeSet]
  · simp [pinPullup_pinModeSet]
  · simp [shadowGet_pinModeSet, hdir, hpu]

/-! #### PINWRITE (41 R173, R176) -/

theorem pinMask_getElem_nat (p : Pin) (i : Nat) (hi : i < 8) : (pinMask p)[i] = decide (p.val % 8 = i) := by
  have h := pinMask_getElem p ⟨i, by omega⟩
  simp only [Nat.mod_eq_of_lt hi] at h
  exact h hi

/-- Setting a pin's bit to the level it has changes no bit of the byte, and to the other level changes it. -/
theorem putLatch_eq_self_iff (o : Byte) (p : Pin) (l : Bool) :
    o = (if l then o ||| pinMask p else o &&& ~~~(pinMask p)) ↔ o.getLsbD (p.val % 8) = l := by
  have hp : p.val % 8 < 8 := Nat.mod_lt _ (by decide)
  constructor
  · intro h
    rw [h]
    cases l <;> simp [pinMask_getElem, hp]
  · intro h
    rw [BitVec.getLsbD_eq_getElem hp] at h
    ext i hi
    by_cases hb : p.val % 8 = i
    · subst hb
      cases l <;> simp [pinMask_getElem, h]
    · cases l <;> simp [pinMask_getElem_nat, hb]

/-- PIN_OUT_SET pushes its byte exactly when the latch changes (41 R175, R176). -/
theorem pinOutSet_trace (c : Chip) (p : Pin) (l : Bool) (s : State) :
    (pinOutSet c p l s).trace = s.trace ++
      (if pinLatch s c p = l then []
       else [.xw c (olatOf p) (shadowGet (pinOutSet c p l s) c (olatOf p))]) := by
  refine (shadowSet1_trace c (olatOf p) _ s).trans ?_
  rw [shadowGet_pinOutSet]
  simp only [putLatch_eq_self_iff, pinLatch, pinBitIn, and_self, if_true]

/-- Settles O30: the byte PIN_OUT_SET writes differs from the old one at the pin's bit only. -/
theorem pinwriteSetsOneLatch : Obligations.PinwriteSetsOneLatch := by
  unfold Obligations.PinwriteSetsOneLatch
  intro s c p l hcore hx
  refine ⟨_, exec_pinwrite_present l (by simp [hcore]) hx, pinFrame_pinOutSet c p l s, fun q => ?_, fun a ha => ?_,
    pinOutSet_trace c p l s⟩
  · simp [pinLatch_pinOutSet]
  · simp [shadowGet_pinOutSet, ha]

/-! #### PINREAD (41 R174) -/

/-- A read takes the head of the tape, if there is one (00 R14). -/
theorem drawExp_eq (s : State) : ∃ d, drawExp s = (expAnswer s, { s with envExp := s.envExp.tail, draws := d }) := by
  cases h : s.envExp with
  | nil => exact ⟨s.draws + 1, by simp [expAnswer, drawExp, h]⟩
  | cons b rest => exact ⟨s.draws, by simp [expAnswer, drawExp_cons h]⟩

/-- RESULT of a PINREAD shows the pin's bit of the byte read (41 R174). -/
theorem pinLevelWord_eq (v : Byte) (p : Pin) : pinLevelWord v p = if v.getLsbD (p.val % 8) then 1 else 0 := by
  have hbit : v.getLsbD (p.val % 8) = (v >>> (p.val % 8)).getLsbD 0 := by simp
  rw [hbit]
  unfold pinLevelWord
  generalize v >>> (p.val % 8) = w
  revert w
  decide

/-- What PINREAD does on a present expander (41 R174). -/
theorem exec_pinread_present {s : State} {c : Chip} (p : Pin) (hx : xpresent s c = true) :
    ∃ d, exec (.pinread c p) s =
      .next (setResult (pinLevelWord (expAnswer s) p) (shadowPut c (gpioOf p) (expAnswer s)
        { s with
          trace := s.trace ++ [.xr c (gpioOf p) (expAnswer s)]
          envExp := s.envExp.tail
          draws := d })) := by
  obtain ⟨d, hdraw⟩ := drawExp_eq s
  refine ⟨d, congrArg Host.Outcome.next ((if_pos hx).trans ?_)⟩
  simp only [expRead, hdraw]
  rfl

/-- Settles O31: one answer is drawn, shown by one event, put into the shadow, and its bit into RESULT. -/
theorem pinreadReturnsTheAnsweredBit : Obligations.PinreadReturnsTheAnsweredBit := by
  unfold Obligations.PinreadReturnsTheAnsweredBit
  intro s c p hx
  obtain ⟨d, hexec⟩ := exec_pinread_present p hx
  refine ⟨_, hexec, ?_, pinLevelWord_eq _ p, fun c' a => ?_, ?_, ?_⟩
  case refine_2 => exact shadowGet_shadowPut c c' (gpioOf p) a (expAnswer s) _
  all_goals cases c <;> rfl

/-! #### Core pins (41 R172-R174, R372) -/

theorem pinPullup_of_shadow0 {s t : State} (h : t.shadow0 = s.shadow0) (q : Pin) :
    pinPullup t .x0 q = pinPullup s .x0 q := by
  simp only [pinPullup, pinBitIn, shadowGet, shadowOf, h]

theorem pinPullup_pinOutSet (c c' : Chip) (p q : Pin) (l : Bool) (s : State) :
    pinPullup (pinOutSet c p l s) c' q = pinPullup s c' q := by
  unfold pinPullup pinBitIn
  rw [shadowGet_pinOutSet, if_neg]
  rintro ⟨-, h⟩
  simp [gppuOf, olatOf] at h
  omega

theorem corePullup_pinmodeCmd (c : Chip) (p : Pin) (mode : PinMode) (s : State) {q : Pin} (hq : q ∈ corePins s.cfg) :
    pinPullup (pinmodeCmd c p mode s) .x0 q = pinPullup s .x0 q := by
  unfold pinmodeCmd
  split
  · exact pinPullup_of_shadow0 (by simp) q
  · next hcore =>
    split
    · rw [pinPullup_pinModeSet, if_neg (not_core_of_accepted hcore hq)]
    · exact pinPullup_of_shadow0 (by simp) q

theorem pinPullup_pinwriteCmd (c : Chip) (p : Pin) (l : Bool) (s : State) (q : Pin) :
    pinPullup (pinwriteCmd c p l s) .x0 q = pinPullup s .x0 q := by
  unfold pinwriteCmd
  split
  · exact pinPullup_of_shadow0 (by simp) q
  · split
    · exact pinPullup_pinOutSet c .x0 p q l s
    · exact pinPullup_of_shadow0 (by simp) q

theorem pinPullup_pinreadCmd (c : Chip) (p : Pin) (s : State) (q : Pin) :
    pinPullup (pinreadCmd c p s) .x0 q = pinPullup s .x0 q := by
  by_cases hx : xpresent s c = true
  · obtain ⟨t, ht, -, -, hget, -⟩ := pinreadReturnsTheAnsweredBit s c p hx
    have hne : gppuOf q ≠ gpioOf p := by simp [gppuOf, gpioOf]; omega
    rw [show pinreadCmd c p s = t from Host.Outcome.next.inj ht]
    simp only [pinPullup, pinBitIn, hget, hne, and_false, if_false]
  · rw [show pinreadCmd c p s = _ from if_neg hx]
    exact pinPullup_of_shadow0 (by simp) q

/-- Settles O57: a command on a core pin is rejected, and one on another pin leaves the core pins' bits. -/
theorem hostCannotMoveCorePins : Obligations.HostCannotMoveCorePins := by
  unfold Obligations.HostCannotMoveCorePins
  intro s t c p mode l h q hq
  obtain h | h | h := h <;> obtain rfl := Host.Outcome.next.inj h
  · obtain ⟨hdir, hlatch⟩ := corePinsKept_pinmodeCmd c p mode s q hq
    exact ⟨hdir, corePullup_pinmodeCmd c p mode s hq, hlatch⟩
  · obtain ⟨hdir, hlatch⟩ := corePinsKept_pinwriteCmd c p l s q hq
    exact ⟨hdir, pinPullup_pinwriteCmd c p l s q, hlatch⟩
  · obtain ⟨hdir, hlatch⟩ := corePinsKept_pinreadCmd c p s q hq
    exact ⟨hdir, pinPullup_pinreadCmd c p s q, hlatch⟩

end Sys2Proof.Machine

/-! ### Power commands that do nothing or find no expander 0 (45 R295; 46 R330, R331, R334, R335) -/

namespace Sys2Proof.Machine

theorem powerOnSeq_on {s : State} (h : s.pwr = .on) : powerOnSeq s = s := if_pos h

theorem powerOffSeq_off {s : State} (h : s.pwr = .off) : powerOffSeq s = s := if_pos h

theorem powerOnSeq_absent {s : State} (h : s.pwr ≠ .on) (hx : ¬s.xpresent0 = true) :
    powerOnSeq s = recordError .absent s := (if_neg h).trans (if_neg hx)

theorem powerOffSeq_absent {s : State} (h : s.pwr ≠ .off) (hx : ¬s.xpresent0 = true) :
    powerOffSeq s = recordError .absent s := (if_neg h).trans (if_neg hx)

/-- A refresh whose power-on faults ends there (45 R294). -/
theorem poweredRefresh_absent (body : State → State) {s : State} (h : s.pwr ≠ .on) (hx : ¬s.xpresent0 = true) :
    poweredRefresh body s = recordError .absent s := by
  simp [poweredRefresh, powerOnSeq_absent h hx, h]

theorem displayCmd_absent {s : State} (h : s.pwr ≠ .on) (hx : ¬s.xpresent0 = true) :
    displayCmd s = recordError .absent s := by
  unfold displayCmd
  split
  · exact poweredRefresh_absent fullMonoBody h hx
  · exact poweredRefresh_absent grayBody h hx

theorem partialCmd_absent {s : State} (hm : s.mode = .mono) (h : s.pwr ≠ .on) (hx : ¬s.xpresent0 = true) :
    partialCmd s = recordError .absent s := by
  unfold partialCmd
  rw [hm]
  dsimp only
  split
  · exact poweredRefresh_absent fullMonoBody h hx
  · exact poweredRefresh_absent partialBody h hx

/-- Settles O43: the power sequences compare PWR first, then ask for expander 0; a refresh stops at their fault. -/
theorem powerNoOpsAndAbsentExpander : Obligations.PowerNoOpsAndAbsentExpander := by
  unfold Obligations.PowerNoOpsAndAbsentExpander
  intro s
  refine ⟨fun hon => congrArg Host.Outcome.next (powerOnSeq_on hon),
    fun hoff => congrArg Host.Outcome.next (powerOffSeq_off hoff), fun habsent hoff => ?_, fun habsent hon => ?_⟩
  · have hx : ¬s.xpresent0 = true := by simp [habsent]
    exact ⟨congrArg Host.Outcome.next (powerOnSeq_absent hoff hx),
      congrArg Host.Outcome.next (displayCmd_absent hoff hx),
      fun hm => congrArg Host.Outcome.next (partialCmd_absent hm hoff hx)⟩
  · exact congrArg Host.Outcome.next (powerOffSeq_absent hon (by simp [habsent]))

end Sys2Proof.Machine

/-! ### The expander initialisation of RESET (41 R170; 70 R390, R413) -/

namespace Sys2Proof.Machine

/-- The image EXPANDER_INIT writes back: the bytes read, both direction bytes 0xFF (41 R170). -/
theorem toList_forceInputs_imageOf {b : List Byte} (h : b.length = 22) :
    (forceInputs (imageOf b)).toList = 0xFF :: 0xFF :: b.drop 2 := by
  apply List.ext_getElem
  · simp [h]
  · intro i hi hj
    match i with
    | 0 => simp [forceInputs]
    | 1 => simp [forceInputs]
    | k + 2 =>
      have hk : k + 2 < b.length := by simpa [h] using hi
      simp [forceInputs, imageOf, hk, Nat.add_comm 2 k]

/-- An expander that acknowledges is read, and its image written back with both ports as inputs (41 R170). -/
theorem expanderInit_acknowledged (c : Chip) {s : State} {acks : List Bool} {b bytes : List Byte}
    (hacks : s.envAcks = true :: acks) (hb : b.length = 22) (hexp : s.envExp = b ++ bytes) :
    expanderInit c s = setXpresent c true (setShadow c (forceInputs (imageOf b))
      { s with trace := s.trace ++ initEventsFor c true b, envAcks := acks, envExp := bytes }) := by
  have hread := hb ▸ drawExpBytes_append (s := emit (.xprobe c true) { s with envAcks := acks }) hexp
  unfold expanderInit expProbe
  rw [drawAck_cons hacks]
  simp only [expReadBlock, hread, if_true]
  cases c <;> simp [expWriteBlock, emit, setShadow, setXpresent, initEventsFor, toList_forceInputs_imageOf hb]

/-- An expander that does not is absent, its shadow unspecified, and no byte is read (41 R170; 10 R40). -/
theorem expanderInit_absent (c : Chip) {s : State} {acks : List Bool} (b : List Byte)
    (hacks : s.envAcks = false :: acks) :
    ∃ v d, expanderInit c s = setXpresent c false (setShadow c v
      { s with trace := s.trace ++ initEventsFor c false b, envAcks := acks, draws := d }) := by
  obtain ⟨d, hfree⟩ := freeBytes_frame 22 (emit (.xprobe c false) { s with envAcks := acks })
  refine ⟨imageOf (freeBytes 22 (emit (.xprobe c false) { s with envAcks := acks })).1, d, ?_⟩
  unfold expanderInit expProbe
  rw [drawAck_cons hacks]
  exact congrArg (fun u => setXpresent c false (setShadow c _ u)) hfree

/-- EXPANDER_INIT for the answer `a` to its probe and, if that acknowledges, `b` to its block read (41 R170). -/
theorem expanderInit_of_answers (c : Chip) {s : State} {a : Bool} {acks : List Bool} {b bytes : List Byte}
    (hacks : s.envAcks = a :: acks) (hb : b.length = 22) (hexp : s.envExp = (if a then b else []) ++ bytes) :
    ∃ v d, expanderInit c s = setXpresent c a (setShadow c v
        { s with trace := s.trace ++ initEventsFor c a b, envAcks := acks, envExp := bytes, draws := d }) ∧
      (a = true → v.toList = 0xFF :: 0xFF :: b.drop 2) := by
  cases a with
  | true => exact ⟨_, s.draws, expanderInit_acknowledged c hacks hb hexp, fun _ => toList_forceInputs_imageOf hb⟩
  | false =>
    obtain ⟨v, d, h⟩ := expanderInit_absent c b hacks
    obtain rfl : s.envExp = bytes := hexp
    exact ⟨v, d, h, nofun⟩

/-- RESET for the answers to its two probes and to the block reads of those that acknowledge (70 R390). -/
theorem resetSeq_of_answers {s : State} {a0 a1 : Bool} {acks : List Bool} {b0 b1 bytes : List Byte}
    (hacks : s.envAcks = a0 :: a1 :: acks) (hb0 : b0.length = 22) (hb1 : b1.length = 22)
    (hexp : s.envExp = (if a0 then b0 else []) ++ ((if a1 then b1 else []) ++ bytes)) :
    ∃ v0 v1 d, resetSeq s =
        { resetFields s with
          busy := false
          shadow0 := v0
          shadow1 := v1
          xpresent0 := a0
          xpresent1 := a1
          trace := initEventsFor .x0 a0 b0 ++ initEventsFor .x1 a1 b1
          envAcks := acks
          envExp := bytes
          draws := d } ∧
      (a0 = true → v0.toList = 0xFF :: 0xFF :: b0.drop 2) ∧ (a1 = true → v1.toList = 0xFF :: 0xFF :: b1.drop 2) := by
  obtain ⟨v0, d0, h0, hv0⟩ := expanderInit_of_answers .x0 (s := resetFields s) hacks hb0 hexp
  obtain ⟨v1, d1, h1, hv1⟩ := expanderInit_of_answers .x1 (s := expanderInit .x0 (resetFields s)) (acks := acks)
    (a := a1) (bytes := bytes) (by rw [h0]; rfl) hb1 (by rw [h0]; rfl)
  refine ⟨v0, v1, d1, ?_, hv0, hv1⟩
  unfold resetSeq
  rw [h1, h0]
  rfl

/-- Settles O15: each initialisation takes its answers off the tapes and leaves the rest to the next. -/
theorem resetInitialisesTheExpanders : Obligations.ResetInitialisesTheExpanders := by
  unfold Obligations.ResetInitialisesTheExpanders
  intro s rest a0 a1 acks b0 b1 bytes hok hin hacks hb0 hb1 hexp
  obtain ⟨v0, v1, d, hreset, hv0, hv1⟩ := resetSeq_of_answers (s := { s with hostIn := rest }) hacks hb0 hb1
    (hexp.trans (List.append_assoc _ _ _))
  refine ⟨_, (step_cons hok hin).trans (congrArg Host.Outcome.next hreset), rfl, rfl, rfl, hv0, hv1, rfl, rfl, ?_⟩
  rintro rfl rfl
  exact ⟨rfl, rfl, rfl, rfl, rfl, rfl, rfl, rfl, rfl, rfl, rfl, rfl, rfl, rfl, rfl, rfl, rfl, rfl,
    b0, b1, hb0, hb1, hv0 rfl, hv1 rfl, rfl⟩

end Sys2Proof.Machine

/-! ### The bit-expansion table and the transition tables (42 R202-R209) -/

namespace Sys2Proof.Machine

/-! #### Where each bit of a drive byte goes -/

/-- The twelve fast-port positions: 0 .. 7 are where the bits of a drive byte go, 8 .. 11 are CL, LE, CKV and SPH
(42 R202). -/
def fastPos (c : Config) (j : Fin 12) : Nat := (fastPositions c)[j]

/-- The two bits of lane g go to the lane's group (42 R201, R202). -/
theorem fastPos_lane (c : Config) (g : Fin 4) (i : Fin 2) :
    fastPos c ⟨2 * g.val + i.val, by omega⟩ = c.dataGroupPos.get g + i.val := by
  match g, i with
  | 0, 0 | 0, 1 | 1, 0 | 1, 1 | 2, 0 | 2, 1 | 3, 0 | 3, 1 => rfl

/-- Position k of a lane's word carries the lane's bit whose place is k. -/
theorem laneBits_getLsbD_iff (c : Config) (d : Byte) (g : Fin 4) {k : Nat} (hk : k < 32) :
    (laneBits c d g).getLsbD k = true ↔
      ∃ i : Fin 2, c.dataGroupPos.get g + i.val = k ∧ d.getLsbD (2 * g.val + i.val) = true := by
  simp only [laneBits, BitVec.zeroExtend, BitVec.getLsbD_shiftLeft, BitVec.getLsbD_setWidth, hk, decide_true,
    Bool.true_and, Bool.and_eq_true, Bool.not_eq_true', decide_eq_false_iff_not, decide_eq_true_eq, Nat.not_lt]
  constructor
  · rintro ⟨hle, -, hbit⟩
    have hi := BitVec.lt_of_getLsbD hbit
    exact ⟨⟨_, hi⟩, Nat.add_sub_cancel' hle, (lane_getLsbD d g _ hi).symm.trans hbit⟩
  · rintro ⟨i, rfl, hbit⟩
    rw [Nat.add_sub_cancel_left, lane_getLsbD d g _ i.isLt]
    exact ⟨Nat.le_add_right _ _, by omega, hbit⟩

/-- `DATA_MASK` expands the byte with every bit set (42 R202). -/
theorem dataMask_eq (c : Config) : dataMask c = pinlut c (BitVec.allOnes 8) := rfl

/-- Position k of `PINLUT[d]` carries the bits of d whose place is k (42 R202). -/
theorem pinlut_getLsbD_iff (c : Config) (d : Byte) {k : Nat} (hk : k < 32) :
    (pinlut c d).getLsbD k = true ↔ ∃ j : Fin 12, fastPos c j = k ∧ d.getLsbD j.val = true := by
  have hlanes : (pinlut c d).getLsbD k = true ↔ ∃ g, (laneBits c d g).getLsbD k = true := by
    simp [pinlut, Fin.exists_fin_succ, or_assoc]
  simp only [hlanes, laneBits_getLsbD_iff c d _ hk]
  constructor
  · rintro ⟨g, i, hpos, hbit⟩
    exact ⟨_, (fastPos_lane c g i).trans hpos, hbit⟩
  · rintro ⟨j, hpos, hbit⟩
    have hj : j.val < 8 := BitVec.lt_of_getLsbD hbit
    have hdiv : 2 * (j.val / 2) + j.val % 2 = j.val := Nat.div_add_mod _ _
    have hlane := fastPos_lane c ⟨j.val / 2, by omega⟩ ⟨j.val % 2, by omega⟩
    simp only [hdiv] at hlane
    exact ⟨⟨j.val / 2, by omega⟩, ⟨j.val % 2, by omega⟩, hlane.symm.trans hpos, by rwa [hdiv]⟩

/-! #### Valid configurations: the twelve positions are distinct (00 R10) -/

section Positions

variable {c : Config} (h : configOk c = true)
include h

theorem fastPos_inj {i j : Fin 12} (hij : fastPos c i = fastPos c j) : i = j := by
  simp only [configOk, positionsOk, Bool.and_eq_true, decide_eq_true_eq] at h
  obtain ⟨⟨⟨⟨-, hnodup, -⟩, -⟩, -⟩, -⟩ := h
  exact Fin.ext ((hnodup.getElem_inj_iff (hi := i.isLt) (hj := j.isLt)).mp hij)

theorem fastPos_lt (j : Fin 12) : fastPos c j < 32 := by
  simp only [configOk, positionsOk, Bool.and_eq_true, List.all_eq_true, decide_eq_true_eq] at h
  obtain ⟨⟨⟨⟨-, -, hlt⟩, -⟩, -⟩, -⟩ := h
  exact hlt _ (List.getElem_mem j.isLt)

/-- The place of bit j carries bit j and no other; a control line, at j = 8 .. 11, carries none. -/
theorem pinlut_getLsbD_fastPos (d : Byte) (j : Fin 12) :
    (pinlut c d).getLsbD (fastPos c j) = d.getLsbD j.val := by
  rw [Bool.eq_iff_iff, pinlut_getLsbD_iff c d (fastPos_lt h j)]
  constructor
  · rintro ⟨i, hpos, hbit⟩
    rwa [← fastPos_inj h hpos]
  · intro hbit
    exact ⟨j, rfl, hbit⟩

/-- Every position of the fast port carries one and the same bit of each drive byte; a bit past the eighth is none. -/
theorem exists_pinlut_getLsbD {k : Nat} (hk : k < 32) : ∃ j, ∀ d, (pinlut c d).getLsbD k = d.getLsbD j := by
  by_cases hpos : ∃ j, fastPos c j = k
  · obtain ⟨j, rfl⟩ := hpos
    exact ⟨j.val, fun d => pinlut_getLsbD_fastPos h d j⟩
  · refine ⟨8, fun d => ?_⟩
    rw [BitVec.getLsbD_of_ge d 8 le_rfl, Bool.eq_false_iff]
    intro hbit
    obtain ⟨j, hj, -⟩ := (pinlut_getLsbD_iff c d hk).mp hbit
    exact hpos ⟨j, hj⟩

/-! So the bitwise operations on bytes are those on the expanded words. -/

theorem pinlut_or (a b : Byte) : pinlut c (a ||| b) = pinlut c a ||| pinlut c b := by
  apply BitVec.eq_of_getLsbD_eq
  intro k hk
  obtain ⟨j, hbit⟩ := exists_pinlut_getLsbD h hk
  simp only [BitVec.getLsbD_or, hbit]

theorem pinlut_and (a b : Byte) : pinlut c (a &&& b) = pinlut c a &&& pinlut c b := by
  apply BitVec.eq_of_getLsbD_eq
  intro k hk
  obtain ⟨j, hbit⟩ := exists_pinlut_getLsbD h hk
  simp only [BitVec.getLsbD_and, hbit]

theorem pinlut_not (a : Byte) : pinlut c (~~~a) = dataMask c &&& ~~~(pinlut c a) := by
  apply BitVec.eq_of_getLsbD_eq
  intro k hk
  obtain ⟨j, hbit⟩ := exists_pinlut_getLsbD h hk
  simp only [dataMask_eq, BitVec.getLsbD_and, BitVec.getLsbD_not, BitVec.getLsbD_allOnes, hbit, hk, decide_true,
    Bool.true_and]

theorem pinlut_and_not_dataMask (d : Byte) : pinlut c d &&& ~~~(dataMask c) = 0 := by
  calc pinlut c d &&& ~~~(dataMask c)
      = pinlut c (d &&& BitVec.allOnes 8) &&& ~~~(dataMask c) := by rw [BitVec.and_allOnes]
    _ = pinlut c d &&& (dataMask c &&& ~~~(dataMask c)) := by rw [pinlut_and h, ← dataMask_eq, BitVec.and_assoc]
    _ = 0 := by simp

/-- No data line is a control line (00 R10). -/
theorem pinlut_and_controlMask (d : Byte) {j : Fin 12} (hj : 8 ≤ j.val) :
    pinlut c d &&& (1 : Word) <<< fastPos c j = 0 := by
  show pinlut c d &&& BitVec.twoPow 32 (fastPos c j) = 0
  rw [BitVec.and_twoPow, pinlut_getLsbD_fastPos h, BitVec.getLsbD_of_ge d _ hj]
  rfl

end Positions

/-- Settles O16: each lane's group holds the two bits of the lane. -/
theorem pinlutIsInjectiveByDecoding : Obligations.PinlutIsInjectiveByDecoding := by
  unfold Obligations.PinlutIsInjectiveByDecoding
  intro c h d
  refine lane_ext fun g => ?_
  rw [pinDecode, lane_ofLanes]
  apply BitVec.eq_of_getLsbD_eq
  intro i hi
  have hbit : (pinlut c d).getLsbD (c.dataGroupPos.get g + i) = d.getLsbD (2 * g.val + i) := by
    rw [← fastPos_lane c g ⟨i, hi⟩, pinlut_getLsbD_fastPos h]
  rw [lane_getLsbD d g i hi, ← hbit]
  simp [hi]

/-- Settles O17: every position of the word carries one bit of the byte or none, so the bitwise laws of bytes hold of
the expanded words; and the control lines are at positions of their own. -/
theorem pinlutLaws : Obligations.PinlutLaws := by
  unfold Obligations.PinlutLaws
  intro c h
  refine ⟨pinlut_and_not_dataMask h, pinlut_or h, pinlut_and h, pinlut_not h, fun d => ?_⟩
  have hcontrol := fun j => pinlut_and_controlMask h d (j := j)
  exact ⟨hcontrol 8 (by decide), hcontrol 9 (by decide), hcontrol 10 (by decide), hcontrol 11 (by decide)⟩

/-! #### Codes of the transition tables (42 R203-R206, R209) -/

/-- White and black are the two codes with one bit set, so together they discharge (00 R10, 42 R200). -/
theorem codeWhite_and_codeBlack {c : Config} (h : configOk c = true) : c.codeWhite &&& c.codeBlack = codeDischarge := by
  simp only [configOk, codesOk, Bool.and_eq_true, Bool.or_eq_true, decide_eq_true_eq] at h
  obtain ⟨⟨⟨-, ⟨hw, hb⟩ | ⟨hw, hb⟩⟩, -⟩, -⟩ := h <;> rw [hw, hb] <;> decide

/-- The byte 0xFF drives no pixel: SKIP in every lane. -/
theorem lane_skipByte (j : Fin 4) : lane 0xFF j = codeSkip := by revert j; decide

/-- No pixel becomes both white and black (45 R297). -/
theorem toWhite_and_toBlack (new old : Byte) : toWhite new old &&& toBlack new old = 0 := by
  apply BitVec.eq_of_getLsbD_eq
  intro j hj
  rw [BitVec.getLsbD_and, toWhite_getLsbD, toBlack_getLsbD new old j hj]
  cases new.getLsbD j <;> simp

/-- Settles O18: the lanes of a table entry are the codes it is built from, and lanes AND bit by bit. -/
theorem transitionTableLanes : Obligations.TransitionTableLanes := by
  unfold Obligations.TransitionTableLanes
  intro c h mw mb code j
  refine ⟨lane_lutw c mw j, lane_lutb c mb j, ?_, lane_ofLanes _ j, lane_ext fun j => ?_, lane_ext fun j => ?_,
    toWhite_and_toBlack⟩
  · rw [lane_and, lane_lutw, lane_lutb]
    cases mw.getLsbD j.val <;> cases mb.getLsbD j.val <;> simp [codeWhite_and_codeBlack h]
  · rw [lane_lutw, lane_skipByte]
    exact if_neg (by simp)
  · rw [lane_lutb, lane_skipByte]
    exact if_neg (by simp)

end Sys2Proof.Machine

/-! ### How the panel is driven: lines shown, and what stays as it was (44 R260-R269; 46 R331-R334) -/

namespace Sys2Proof.Machine

/-! #### Levels and pins outside the panel -/

theorem inPanel_dataMask (c : Config) : InPanel c (dataMask c) := inPanel_pinlut c 0xFF

/-- Raising lines of the panel leaves every other line. -/
theorem InPanel.or_kept {c : Config} {m : Word} (hm : InPanel c m) (w : Word) :
    (w ||| m) &&& ~~~(panelMask c) = w &&& ~~~(panelMask c) := by
  rw [Sys2Proof.Laws.RowMatch.or_and, show m &&& _ = 0 from hm]
  exact BitVec.or_zero

/-- So does lowering them. -/
theorem InPanel.and_not_kept {c : Config} {m : Word} (hm : InPanel c m) (w : Word) :
    (w &&& ~~~m) &&& ~~~(panelMask c) = w &&& ~~~(panelMask c) := by
  apply BitVec.eq_of_getLsbD_eq
  intro k hk
  have hbit := (inPanel_iff c m).mp hm k hk
  simp only [BitVec.getLsbD_and, BitVec.getLsbD_not, hk, decide_true, Bool.true_and]
  cases hmk : m.getLsbD k with
  | false => simp
  | true => simp [hbit hmk]

theorem OtherPinsKept.of_shadow0 {s t : State} (h : t.shadow0 = s.shadow0) : OtherPinsKept s t :=
  ⟨fun p _ => ⟨pinIsInput_of_shadow0 h p, pinPullup_of_shadow0 h p, pinLatch_of_shadow0 h p⟩, fun a _ => by
    simp only [shadowGet, shadowOf, h]⟩

theorem OtherPinsKept.trans {s t u : State} (hcfg : t.cfg = s.cfg) (h : OtherPinsKept s t) (k : OtherPinsKept t u) :
    OtherPinsKept s u := by
  obtain ⟨hpins, hbytes⟩ := h
  obtain ⟨kpins, kbytes⟩ := k
  rw [hcfg] at kpins kbytes
  refine ⟨fun p hp => ?_, fun a ha => (kbytes a ha).trans (hbytes a ha)⟩
  obtain ⟨hin, hpu, hl⟩ := hpins p hp
  obtain ⟨kin, kpu, kl⟩ := kpins p hp
  exact ⟨kin.trans hin, kpu.trans hpu, kl.trans hl⟩

theorem corePin_mem (c : Config) (sig : CoreSig) : corePin c sig ∈ corePins c := mem_corePins.mpr ⟨sig, rfl⟩

theorem otherPinsKept_coreSet (sig : CoreSig) (l : Bool) (s : State) : OtherPinsKept s (coreSet sig l s) := by
  refine ⟨fun p hp => ⟨pinIsInput_coreSet s .x0 p sig l, pinPullup_pinOutSet .x0 .x0 _ p l s, ?_⟩,
    fun a ha => ?_⟩
  · rw [pinLatch_coreSet, if_neg]
    rintro ⟨-, rfl⟩
    exact hp (corePin_mem s.cfg sig)
  · obtain ⟨-, -, hne⟩ := ha _ (corePin_mem s.cfg sig)
    exact (shadowGet_pinOutSet .x0 .x0 _ l a s).trans (if_neg fun h => hne h.2)

theorem otherPinsKept_coreOut (sig : CoreSig) (s : State) : OtherPinsKept s (coreOut sig s) := by
  refine ⟨fun p hp => ?_, fun a ha => ?_⟩
  · have hne : ¬(Chip.x0 = .x0 ∧ p = corePin s.cfg sig) := fun h => hp (h.2 ▸ corePin_mem s.cfg sig)
    refine ⟨?_, ?_, pinLatch_coreOut s .x0 p sig⟩
    · rw [pinIsInput_coreOut, if_neg hne]
    · exact (pinPullup_pinModeSet .x0 .x0 _ p .output s).trans (if_neg hne)
  · obtain ⟨hdir, hpu, -⟩ := ha _ (corePin_mem s.cfg sig)
    unfold coreOut
    rw [shadowGet_pinModeSet, if_neg fun h => hpu h.2, if_neg fun h => hdir h.2]

/-! #### Driving the panel -/

/-- From `s` to `t` the block emits exactly the events of the lines, and moves no fast-port line outside the panel and
no pin of expander 0 but the core pins. -/
structure PanelDrive (ls : List Line) (s t : State) : Prop where
  cfg_eq : t.cfg = s.cfg
  shows : Shows ls s t
  fastOut_kept : t.fastOut &&& ~~~(panelMask s.cfg) = s.fastOut &&& ~~~(panelMask s.cfg)
  otherPins : OtherPinsKept s t

namespace PanelDrive

protected theorem refl (s : State) : PanelDrive [] s s := ⟨rfl, Shows.refl s, rfl, .of_shadow0 rfl⟩

variable {ls ms : List Line} {s t u : State}

protected theorem trans (h : PanelDrive ls s t) (k : PanelDrive ms t u) : PanelDrive (ls ++ ms) s u where
  cfg_eq := k.cfg_eq.trans h.cfg_eq
  shows := h.shows.trans k.shows
  fastOut_kept := by
    have hk := k.fastOut_kept
    rw [h.cfg_eq] at hk
    exact hk.trans h.fastOut_kept
  otherPins := h.otherPins.trans h.cfg_eq k.otherPins

theorem of_lines (hls : ls = ms) (h : PanelDrive ls s t) : PanelDrive ms s t := hls ▸ h

/-! Each operation of the sequencers after a drive is a drive with its lines after the others. -/

section Operations

variable (h : PanelDrive ls s t)
include h

/-- A change of none of the fields that a drive speaks of. -/
theorem then_quiet (hcfg : u.cfg = t.cfg) (htrace : u.trace = t.trace) (hshadow : u.shadow0 = t.shadow0)
    (hout : u.fastOut = t.fastOut) : PanelDrive ls s u where
  cfg_eq := hcfg.trans h.cfg_eq
  shows := h.shows.congr rfl rfl htrace hshadow
  fastOut_kept := hout ▸ h.fastOut_kept
  otherPins := h.otherPins.trans h.cfg_eq (.of_shadow0 hshadow)

theorem then_emit (e : Event) : PanelDrive (ls ++ [.event e]) s (emit e t) :=
  h.trans ⟨rfl, shows_emit e t, rfl, .of_shadow0 rfl⟩

theorem then_delayUs (n : Nat) : PanelDrive (ls ++ [.event (.dus n)]) s (delayUs n t) := h.then_emit _

theorem then_delayMs (n : Nat) : PanelDrive (ls ++ [.event (.dms n)]) s (delayMs n t) := h.then_emit _

theorem then_pmicWrite (a v : Byte) : PanelDrive (ls ++ [.event (.pw a v)]) s (pmicWrite a v t) := h.then_emit _

theorem then_fastDirOut (m : Word) : PanelDrive (ls ++ [.event (.fdir m)]) s (fastDirOut m t) :=
  h.trans ⟨rfl, shows_fastDirOut m t, rfl, .of_shadow0 rfl⟩

theorem then_fastSet {m : Word} (hm : InPanel s.cfg m) : PanelDrive (ls ++ [.event (.fset m)]) s (fastSet m t) :=
  h.trans ⟨rfl, shows_fastSet m t, (h.cfg_eq.symm ▸ hm).or_kept t.fastOut, .of_shadow0 rfl⟩

theorem then_fastClear {m : Word} (hm : InPanel s.cfg m) : PanelDrive (ls ++ [.event (.fclr m)]) s (fastClear m t) :=
  h.trans ⟨rfl, shows_fastClear m t, (h.cfg_eq.symm ▸ hm).and_not_kept t.fastOut, .of_shadow0 rfl⟩

theorem then_coreSet (sig : CoreSig) (l : Bool) :
    PanelDrive (ls ++ [.latch (corePin s.cfg sig) l]) s (coreSet sig l t) :=
  h.cfg_eq ▸ h.trans
    ⟨coreSet_cfg sig l t, shows_coreSet sig l t, by rw [coreSet_fastOut], otherPinsKept_coreSet sig l t⟩

theorem then_coreOut (sig : CoreSig) : PanelDrive (ls ++ [.out (corePin s.cfg sig)]) s (coreOut sig t) :=
  h.cfg_eq ▸ h.trans
    ⟨coreOut_cfg sig t, shows_coreOut sig t, by rw [coreOut_fastOut], otherPinsKept_coreOut sig t⟩

/-- A repetition drives the lines of its rounds, in ascending order. -/
theorem then_forUpTo {f : Nat → State → State} {lines : Nat → List Line} (n : Nat)
    (hf : ∀ k ms u, PanelDrive ms s u → PanelDrive (ms ++ lines k) s (f k u)) :
    PanelDrive (ls ++ (List.range n).flatMap lines) s (forUpTo n f t) := by
  induction n with
  | zero => exact (List.append_nil ls).symm ▸ h
  | succ n ih =>
    rw [List.range_succ, List.flatMap_append, List.flatMap_singleton, ← List.append_assoc]
    exact hf n _ _ ih

end Operations

/-! #### Passes (44 R260-R269) -/

theorem vscanStartSeq (s : State) : PanelDrive (vscanStartLines s.cfg) s (vscanStartSeq s) := by
  have hckv := inPanel_ckvMask s.cfg
  unfold Machine.vscanStartSeq
  refine of_lines ?_ ((PanelDrive.refl s).then_fastSet hckv |>.then_delayUs _
    |>.then_coreSet .spv false |>.then_delayUs _
    |>.then_fastClear hckv |>.then_delayUs _ |>.then_fastSet hckv |>.then_delayUs _
    |>.then_coreSet .spv true |>.then_delayUs _
    |>.then_fastClear hckv |>.then_delayUs _ |>.then_fastSet hckv |>.then_delayUs _
    |>.then_fastClear hckv |>.then_delayUs _ |>.then_fastSet hckv |>.then_delayUs _
    |>.then_fastClear hckv |>.then_delayUs _ |>.then_fastSet hckv)
  simp only [List.nil_append, List.cons_append]
  rfl

section Passes

variable (h : PanelDrive ls s t)
include h

theorem then_columnWrite (d : Byte) : PanelDrive (ls ++ columnLines s.cfg d) s (columnWrite d t) :=
  h.cfg_eq ▸ h.trans ((PanelDrive.refl t).then_fastSet ((inPanel_pinlut t.cfg d).or (inPanel_clMask t.cfg))
    |>.then_fastClear ((inPanel_dataMask t.cfg).or (inPanel_clMask t.cfg)))

theorem then_hscanStartSeq (d : Byte) :
    PanelDrive (ls ++ ([.event (.fclr (sphMask s.cfg))] ++ columnLines s.cfg d ++
      [.event (.fset (sphMask s.cfg)), .event (.fset (ckvMask s.cfg))])) s (hscanStartSeq d t) :=
  h.cfg_eq ▸ h.trans ((PanelDrive.refl t).then_fastClear (inPanel_sphMask t.cfg) |>.then_columnWrite d
    |>.then_fastSet (inPanel_sphMask t.cfg) |>.then_fastSet (inPanel_ckvMask t.cfg))

theorem then_vscanEndSeq :
    PanelDrive
      (ls ++ [.event (.fclr (ckvMask s.cfg)), .event (.fset (leMask s.cfg)), .event (.fclr (leMask s.cfg))]) s
      (vscanEndSeq t) :=
  h.cfg_eq ▸ h.trans ((PanelDrive.refl t).then_fastClear (inPanel_ckvMask t.cfg)
    |>.then_fastSet (inPanel_leMask t.cfg) |>.then_fastClear (inPanel_leMask t.cfg))

theorem then_scanRow (b : WordSource) (y : Nat) : PanelDrive (ls ++ rowLines s.cfg (b y)) s (scanRow b y t) :=
  h.cfg_eq ▸ h.trans ((PanelDrive.refl t).then_hscanStartSeq (b y 0)
    |>.then_forUpTo (wordsPerRow t.cfg - 1) (fun k _ _ hk => hk.then_columnWrite (b y (k + 1)))
    |>.then_vscanEndSeq)

theorem then_pass (b : WordSource) : PanelDrive (ls ++ passLines s.cfg b) s (pass b t) :=
  h.cfg_eq ▸ h.trans ((vscanStartSeq t).then_forUpTo t.cfg.h (fun y _ _ hy => hy.then_scanRow b y) |>.then_emit _)

/-- Passes whose words no pass changes are one pass, repeated (45 R293). -/
theorem then_repeatPass (n : Nat) {b : State → WordSource} (hb : ∀ u, ScanFrame t u → b u = b t) :
    PanelDrive (ls ++ (List.replicate n (passLines s.cfg (b t))).flatten) s (repeatPass n b t) := by
  induction n with
  | zero => exact (List.append_nil ls).symm ▸ h
  | succ n ih =>
    rw [List.replicate_succ', List.flatten_append, List.flatten_singleton, ← List.append_assoc,
      ← hb _ (scanFrame_repeatPass n b t)]
    exact (hb _ (scanFrame_repeatPass n b t) ▸ ih).then_pass _

end Passes

theorem then_cleanList (h : PanelDrive ls s t) (l : List (BitVec 2 × Nat)) :
    PanelDrive (ls ++ cleanLines s.cfg l) s (cleanList l t) := by
  induction l generalizing ls t with
  | nil => exact (List.append_nil ls).symm ▸ h
  | cons e l ih =>
    have hclean := h.then_repeatPass e.2 (b := bClean e.1) (fun _ _ => rfl)
    exact List.append_assoc ls _ _ ▸ ih hclean

/-! #### The power sequencer (46 R331-R334) -/

theorem powerOnSetup (s : State) : PanelDrive (powerOnLines s.cfg) s (powerOnSetup s) := by
  have hdata := inPanel_dataMask s.cfg
  have hcl := inPanel_clMask s.cfg
  have hle := inPanel_leMask s.cfg
  have hckv := inPanel_ckvMask s.cfg
  unfold Machine.powerOnSetup
  refine of_lines ?_ ((PanelDrive.refl s).then_quiet (u := setPwr .enabling s) rfl rfl rfl rfl
    |>.then_coreOut .wakeup |>.then_coreOut .pwrup |>.then_coreOut .vcom
    |>.then_coreSet .wakeup true |>.then_delayMs _ |>.then_coreSet .pwrup true |>.then_pmicWrite _ _
    |>.then_coreOut .oe |>.then_coreOut .gmod |>.then_coreOut .spv
    |>.then_fastDirOut _ |>.then_fastClear (((hdata.or hcl).or hle).or hckv) |>.then_fastSet (inPanel_sphMask s.cfg)
    |>.then_coreSet .oe false |>.then_coreSet .gmod true |>.then_coreSet .spv true |>.then_coreSet .vcom true)
  simp only [List.nil_append, List.cons_append]
  rfl

theorem powerOffSetup (s : State) : PanelDrive (powerOffLines s.cfg) s (powerOffSetup s) := by
  have hdata := inPanel_dataMask s.cfg
  have hcl := inPanel_clMask s.cfg
  have hle := inPanel_leMask s.cfg
  unfold Machine.powerOffSetup
  refine of_lines ?_ ((PanelDrive.refl s).then_quiet (u := setPwr .disabling s) rfl rfl rfl rfl
    |>.then_coreSet .oe false |>.then_coreSet .gmod false |>.then_coreSet .spv false
    |>.then_fastClear ((inPanel_ckvMask s.cfg).or (inPanel_sphMask s.cfg)) |>.then_fastClear ((hdata.or hcl).or hle)
    |>.then_coreSet .vcom false |>.then_delayMs _ |>.then_coreSet .pwrup false |>.then_coreSet .wakeup false)
  simp only [List.nil_append, List.cons_append]
  rfl

/-- A poll whose first read takes answer number `k` of `s` (46 R332). -/
theorem then_pgPoll (h : PanelDrive ls s t) (pred : Byte → Bool) {k : Nat}
    (hk : ∀ n, pmicAnswer t n = pmicAnswer s (k + n)) :
    PanelDrive (ls ++ pollLines pred s k) s (pgPoll pred pgTimeoutMs t).2 := by
  obtain ⟨hpoll, -⟩ := pgPoll_snd pred pgTimeoutMs t
  have hcfg : (pgPoll pred pgTimeoutMs t).2.cfg = t.cfg := by rw [hpoll]
  have hout : (pgPoll pred pgTimeoutMs t).2.fastOut = t.fastOut := by rw [hpoll]
  exact h.trans ⟨hcfg, shows_pgPoll pred s t k h.cfg_eq hk, by rw [hout], .of_shadow0 hpoll.shadow0_eq⟩

end PanelDrive

/-! ### The answers to come (00 R14; 46 R332) -/

theorem pmicAnswer_congr {s t : State} (htape : t.envPmic = s.envPmic) (hdraws : t.draws = s.draws) (n : Nat) :
    pmicAnswer t n = pmicAnswer s n := by
  unfold pmicAnswer
  rw [htape, hdraws]

/-- Scans draw no answer. -/
theorem ScanFrame.pmicAnswer_eq {s t : State} (h : ScanFrame s t) (n : Nat) : pmicAnswer t n = pmicAnswer s n :=
  pmicAnswer_congr (by rw [h]) (by rw [h]) n

@[simp] theorem pmicAnswer_coreSet (sig : CoreSig) (l : Bool) (s : State) (n : Nat) :
    pmicAnswer (coreSet sig l s) n = pmicAnswer s n := (scanFrame_coreSet sig l s).pmicAnswer_eq n

@[simp] theorem pmicAnswer_coreOut (sig : CoreSig) (s : State) (n : Nat) :
    pmicAnswer (coreOut sig s) n = pmicAnswer s n := (scanFrame_coreOut sig s).pmicAnswer_eq n

@[simp] theorem pmicAnswer_fastSet (m : Word) (s : State) (n : Nat) :
    pmicAnswer (fastSet m s) n = pmicAnswer s n := rfl

@[simp] theorem pmicAnswer_fastClear (m : Word) (s : State) (n : Nat) :
    pmicAnswer (fastClear m s) n = pmicAnswer s n := rfl

@[simp] theorem pmicAnswer_fastDirOut (m : Word) (s : State) (n : Nat) :
    pmicAnswer (fastDirOut m s) n = pmicAnswer s n := rfl

@[simp] theorem pmicAnswer_delayMs (k : Nat) (s : State) (n : Nat) :
    pmicAnswer (delayMs k s) n = pmicAnswer s n := rfl

@[simp] theorem pmicAnswer_pmicWrite (a v : Byte) (s : State) (n : Nat) :
    pmicAnswer (pmicWrite a v s) n = pmicAnswer s n := rfl

@[simp] theorem pmicAnswer_setPwr (p : Pwr) (s : State) (n : Nat) :
    pmicAnswer (setPwr p s) n = pmicAnswer s n := rfl

theorem pmicAnswer_powerOnSetup (s : State) (n : Nat) : pmicAnswer (powerOnSetup s) n = pmicAnswer s n := by
  simp [powerOnSetup]

theorem pmicAnswer_powerOffSetup (s : State) (n : Nat) : pmicAnswer (powerOffSetup s) n = pmicAnswer s n := by
  simp [powerOffSetup]

theorem pmicAnswer_powerOnFinish (s : State) (n : Nat) : pmicAnswer (powerOnFinish s) n = pmicAnswer s n :=
  pmicAnswer_coreSet .oe true s n

/-- A poll takes the answers it reads off the tape. -/
theorem pmicAnswer_pgPoll (pred : Byte → Bool) (n : Nat) (s : State) (k : Nat) :
    pmicAnswer (pgPoll pred n s).2 k = pmicAnswer s (readsWithin n pred s + k) := by
  induction n generalizing s with
  | zero => exact congrArg _ (Nat.zero_add k).symm
  | succ n ih =>
    have h0 : (pmicRead s.cfg.pgReg (delayMs pgPollMs s)).1 = pmicAnswer s 0 := drawPmic_fst _
    have hs : ∀ k, pmicAnswer (pmicRead s.cfg.pgReg (delayMs pgPollMs s)).2 k = pmicAnswer s (k + 1) :=
      fun k => pmicAnswer_pmicRead _ _ k
    simp only [pgPoll]
    rw [readsWithin_succ n pred s _ hs, h0]
    split
    · rw [hs, Nat.add_comm]
    · rw [ih, hs, Nat.add_right_comm]

/-- A poll in a state `u` whose answers are those of `s` from number `k` on makes the reads counted from `k`. -/
theorem readsWithin_eq_pollReads (pred : Byte → Bool) {s u : State} {k : Nat}
    (hk : ∀ n, pmicAnswer u n = pmicAnswer s (k + n)) : readsWithin pgTimeoutMs pred u = pollReads pred s k := by
  unfold readsWithin
  simp only [hk]
  rfl

/-! ### A refresh that reaches ON (45 R291, R292, R296) -/

/-- What a power-on that reaches ON does: nothing while ON already (46 R331). -/
structure ReachesOn (s t : State) : Prop where
  drive : PanelDrive (turnOnLines s) s t
  frame : DriveFrame s t
  pwr_on : t.pwr = .on
  pwrFail_eq : t.pwrFail = (s.pwrFail && decide (s.pwr = .on))
  lastErr_eq : t.lastErr = s.lastErr
  fastDir_eq : t.fastDir = if s.pwr = .on then s.fastDir else s.fastDir ||| panelMask s.cfg
  answers_eq : ∀ n, pmicAnswer t n = pmicAnswer s (turnOnReads s + n)

/-- With a good answer in time the poll ends in the output enable (46 R331). -/
theorem powerOnSeq_good {s : State} (hoff : s.pwr ≠ .on) (hx : s.xpresent0 = true) (hgood : PowerComesGood s) :
    powerOnSeq s = powerOnFinish (pgPoll (pgGood s.cfg) pgTimeoutMs (powerOnSetup s)).2 := by
  have hpoll : (pgPoll (pgGood s.cfg) pgTimeoutMs (powerOnSetup s)).1 = true := by
    simp only [pgPoll_fst, pmicAnswer_powerOnSetup]
    exact hgood
  unfold powerOnSeq
  rw [if_neg hoff, if_pos hx]
  exact if_pos hpoll

theorem reachesOn_powerOnSeq {s : State} (hok : configOk s.cfg = true) (h : CanPower s) :
    ReachesOn s (powerOnSeq s) := by
  obtain ⟨hx, hpower⟩ := h
  by_cases hon : s.pwr = .on
  · rw [powerOnSeq_on hon]
    exact ⟨by simpa [turnOnLines, hon] using PanelDrive.refl s, rfl, hon, by simp [hon], rfl, by simp [hon],
      by simp [turnOnReads, hon]⟩
  · rw [powerOnSeq_good hon hx (hpower.resolve_left hon)]
    obtain ⟨hframe, -, hdir, -⟩ := powerOnSetup_spec s (configOk_corePins hok)
    have hlast : (powerOnSetup s).lastErr = s.lastErr := by simp [powerOnSetup]
    have hsame : ∀ n, pmicAnswer (powerOnSetup s) n = pmicAnswer s (0 + n) := fun n => by
      rw [pmicAnswer_powerOnSetup, Nat.zero_add]
    have hanswers := pmicAnswer_pgPoll (pgGood s.cfg) pgTimeoutMs (powerOnSetup s)
    rw [readsWithin_eq_pollReads _ hsame] at hanswers
    have hdrive := (PanelDrive.powerOnSetup s).then_pgPoll (pgGood s.cfg) hsame
    obtain ⟨hpoll, -⟩ := pgPoll_snd (pgGood s.cfg) pgTimeoutMs (powerOnSetup s)
    generalize (pgPoll (pgGood s.cfg) pgTimeoutMs (powerOnSetup s)).2 = u at *
    obtain ⟨hfinish, hpwr, hfail, hflast, hfdir, -⟩ :=
      powerOnFinish_spec u (hdrive.cfg_eq ▸ configOk_corePins hok)
    refine ⟨?_, (hframe.trans hpoll.drive).trans hfinish, hpwr, by simp [hfail, hon], ?_, ?_, fun n => ?_⟩
    · rw [turnOnLines, if_neg hon]
      exact (hdrive.then_coreSet .oe true).then_quiet rfl rfl rfl rfl
    · rw [hflast, hpoll, hlast]
    · rw [hfdir, hpoll, hdir, if_neg hon]
    · rw [pmicAnswer_powerOnFinish, hanswers, turnOnReads, if_neg hon, pmicAnswer_powerOnSetup]

/-- The power-off of a block that is ON (46 R334). -/
theorem powerOffSeq_on {s : State} (hon : s.pwr = .on) (hx : s.xpresent0 = true) :
    powerOffSeq s = setPwr .off (pgPoll (pgCleared s.cfg) pgTimeoutMs (powerOffSetup s)).2 := by
  unfold powerOffSeq
  rw [if_neg (by simp [hon]), if_pos hx]

/-- A refresh whose work between power-on and power-off drives `passes`, and changes besides the scan's fields at most
the history, is one refresh as a whole (45 R291, R292, R296). -/
theorem ReachesOn.drivenRefresh {s t v : State} {passes : List Line} {prev : List Host.Cell} {forced : Bool}
    (h : ReachesOn s t) (hx : s.xpresent0 = true) (hwork : PanelDrive passes t v)
    (hv : ScanFrame { t with prev := prev, forcedFull := forced } v) :
    DriveFrame { s with prev := prev, forcedFull := forced } (powerOffSeq v) ∧
      DrivenRefresh s passes (powerOffSeq v) := by
  have hon : v.pwr = .on := hv.pwr_eq.trans h.pwr_on
  have hframe : DriveFrame { s with prev := prev, forcedFull := forced } v := by
    have hs := h.frame
    unfold DriveFrame ScanFrame at *
    rw [hv, hs]
  have hvx : v.xpresent0 = true := by rw [hframe, ← hx]
  have hvcfg : v.cfg = s.cfg := by rw [hframe]
  rw [powerOffSeq_on hon hvx]
  obtain ⟨hsetup, hfail, hlast, hdir, hout, -, hlow⟩ := powerOffSetup_spec v
  have hdrive : PanelDrive (refreshLines s passes) s (pgPoll (pgCleared v.cfg) pgTimeoutMs (powerOffSetup v)).2 := by
    have hoff := (h.drive.trans hwork).trans (PanelDrive.powerOffSetup v)
    rw [hvcfg] at hoff ⊢
    refine hoff.then_pgPoll (pgCleared s.cfg) (k := turnOnReads s) fun n => ?_
    rw [pmicAnswer_powerOffSetup, hv.pmicAnswer_eq]
    exact h.answers_eq n
  have hkept := (h.drive.trans hwork).fastOut_kept
  obtain ⟨hpoll, -⟩ := pgPoll_snd (pgCleared v.cfg) pgTimeoutMs (powerOffSetup v)
  generalize (pgPoll (pgCleared v.cfg) pgTimeoutMs (powerOffSetup v)).2 = u at *
  have hdrive := hdrive.then_quiet (u := setPwr .off u) rfl rfl rfl rfl
  refine ⟨((hframe.trans hsetup).trans hpoll.drive).trans (driveFrame_setPwr .off u),
    hdrive.shows, rfl, ?_, ?_, ?_, ?_, fun p hp => ?_, hdrive.otherPins⟩
  · show u.lastErr = _
    rw [hpoll, hlast, hv]
    exact h.lastErr_eq
  · show u.pwrFail = _
    rw [hpoll, hfail, hv]
    exact h.pwrFail_eq
  · show u.fastOut = _
    rw [hpoll, hout, hvcfg]
    exact hkept
  · show u.fastDir = _
    rw [hpoll, hdir, hv]
    exact h.fastDir_eq
  · rw [← hvcfg, mem_corePins] at hp
    obtain ⟨sig, rfl⟩ := hp
    rw [pinLatch_setPwr, pinLatch_of_shadow0 hpoll.shadow0_eq, hlow]

/-! ### The commit of a partial refresh (45 R296, R298) -/

/-- One round of the commit loop. -/
def commitRound (i : Nat) (s : State) : State :=
  prevPut i ((prevRead s i &&& fb1Read s i) ||| fb1Read s i) s

theorem commitPartial_eq_rounds (s : State) : commitPartial s = forUpTo (fb1Size s.cfg) commitRound s := rfl

/-- `(PREV[i] & FB1[i]) | FB1[i]` is `FB1[i]` (45 R298). -/
theorem commitRound_eq (i : Nat) (s : State) : commitRound i s = prevPut i (fb1Read s i) s := by
  have habsorb : ∀ p f : Byte, (p &&& f) ||| f = f := fun p f => by
    apply BitVec.eq_of_getLsbD_eq
    intro k _
    simp only [BitVec.getLsbD_or, BitVec.getLsbD_and]
    cases p.getLsbD k <;> cases f.getLsbD k <;> rfl
  rw [commitRound, habsorb]

/-- After `n` rounds the first `n` bytes of PREV are those of FB1, and the others are as they were. -/
theorem commitRounds_prev {s : State} (h : Memory.wf monoBlank s.prev = true) (n : Nat) :
    ∃ p, forUpTo n commitRound s = { s with prev := p } ∧ Memory.wf monoBlank p = true ∧
      ∀ i, Memory.read monoBlank p i = if i < n then fb1Read s i else prevRead s i := by
  induction n with
  | zero => exact ⟨s.prev, rfl, h, fun i => rfl⟩
  | succ n ih =>
    obtain ⟨p, hp, hwf, hread⟩ := ih
    refine ⟨Memory.write monoBlank p n (fb1Read s n), ?_, write_wf n _ hwf, fun i => ?_⟩
    · rw [show forUpTo (n + 1) commitRound s = commitRound n (forUpTo n commitRound s) from rfl, hp, commitRound_eq]
      rfl
    · rw [read_write n i _ hwf, hread]
      by_cases hi : i = n
      · simp [hi]
      · have hlt : i < n + 1 ↔ i < n := by omega
        simp only [hi, if_false, hlt]

/-- The loop over the whole size overwrites PREV by FB1 (45 R298). -/
theorem commitPartial_eq {s : State} (h : BufferInv s) : commitPartial s = { s with prev := s.fb1 } := by
  obtain ⟨hwf1, hwfp, -, hin1, hinp, -⟩ := h
  obtain ⟨p, hp, hwf, hread⟩ := commitRounds_prev hwfp (fb1Size s.cfg)
  rw [commitPartial_eq_rounds, hp, wf_ext hwf hwf1 fun i => ?_]
  rw [hread]
  split
  · rfl
  · next hi =>
    unfold prevRead
    rw [read_outside hinp (not_lt.mp hi), read_outside hin1 (not_lt.mp hi)]

/-! ### PARTIAL (45 R295-R299) -/

/-- The words of a differential pass speak of the parameters and the two buffers only. -/
theorem bDiff_congr {s t : State} (hcfg : t.cfg = s.cfg) (hfb1 : t.fb1 = s.fb1) (hprev : t.prev = s.prev) :
    bDiff t = bDiff s := by
  unfold bDiff fb1Read prevRead
  rw [hcfg, hfb1, hprev]

/-- What PARTIAL does between its power-on and its power-off (45 R296). -/
def partialWork (s : State) : State :=
  cleanList (cleanTail s.cfg) (commitPartial (repeatPass partialRepeat bDiff s))

theorem partialBody_eq (s : State) : partialBody s = powerOffSeq (partialWork s) := rfl

theorem scanFrame_partialWork {s : State} (h : BufferInv s) :
    ScanFrame { s with prev := s.fb1 } (partialWork s) := by
  have hpasses := scanFrame_repeatPass partialRepeat bDiff s
  have hcommit := commitPartial_eq (h.of_panel hpasses.drive.panel)
  unfold partialWork
  rw [hcommit]
  refine ScanFrame.trans ?_ (scanFrame_cleanList (cleanTail s.cfg) _)
  unfold ScanFrame at *
  rw [hpasses]

theorem panelDrive_partialWork (s : State) : PanelDrive (partialPasses s) s (partialWork s) := by
  obtain ⟨p, hp⟩ := commitPartial_frame (repeatPass partialRepeat bDiff s)
  have hwords : ∀ u, ScanFrame s u → bDiff u = bDiff s := fun u hu => by
    apply bDiff_congr <;> rw [hu]
  have hpasses := (PanelDrive.refl s).then_repeatPass partialRepeat hwords
  have hcommit := hpasses.then_quiet (u := commitPartial _) (by rw [hp]) (by rw [hp]) (by rw [hp]) (by rw [hp])
  refine PanelDrive.of_lines ?_ (hcommit.then_cleanList (cleanTail s.cfg))
  simp [partialPasses, partialRepeat, List.replicate]

/-- PARTIAL in MONO with a valid history that reaches ON: what it drives, and what it leaves (45 R295, R296, R298). -/
theorem partialCmd_drives {s : State} (hok : configOk s.cfg = true) (hinv : BufferInv s) (hm : s.mode = .mono)
    (hff : s.forcedFull = false) (hpower : CanPower s) :
    DriveFrame { s with prev := s.fb1 } (partialCmd s) ∧ DrivenRefresh s (partialPasses s) (partialCmd s) := by
  have hreach := reachesOn_powerOnSeq hok hpower
  have hframe := hreach.frame
  have hcmd : partialCmd s = powerOffSeq (partialWork (powerOnSeq s)) := by
    simp [partialCmd, hm, hff, partialSeq, poweredRefresh, hreach.pwr_on, partialBody_eq]
  have hpasses : partialPasses (powerOnSeq s) = partialPasses s := by
    unfold partialPasses
    rw [bDiff_congr (s := s) (by rw [hframe]) (by rw [hframe]) (by rw [hframe]), hreach.drive.cfg_eq]
  rw [hcmd, ← hpasses]
  refine hreach.drivenRefresh (forced := s.forcedFull) hpower.1 (panelDrive_partialWork _) ?_
  have hwork := scanFrame_partialWork (hinv.of_panel hframe.panel)
  rw [DriveFrame] at hframe
  rw [hframe] at hwork ⊢
  exact hwork

/-- Where PREV and FB1 agree, no pixel is driven (45 R297, R299). -/
theorem bDiff_of_committed {s : State} (h : s.prev = s.fb1) (y k : Nat) : bDiff s y k = 0xFF := by
  refine lane_ext fun g => ?_
  have hpixel : monoPixel s (4 * k + g.rev.val) y = prevPixel s (4 * k + g.rev.val) y := by
    unfold monoPixel prevPixel fb1Read prevRead
    rw [h]
  have hlane := partialPassDrivesExactlyChangedPixels s y k g.rev
  rwa [if_pos hpixel, Fin.rev_rev, ← lane_skipByte g] at hlane

/-- Then the three passes are clean passes of SKIP (44 R269). -/
theorem partialPasses_of_committed {s : State} (h : s.prev = s.fb1) :
    partialPasses s = cleanLines s.cfg [(codeSkip, 3)] ++ cleanLines s.cfg (cleanTail s.cfg) := by
  have hskip : bDiff s = fun _ _ => cleanByte codeSkip := by
    funext y k
    exact (bDiff_of_committed h y k).trans (by decide)
  simp [partialPasses, cleanLines, hskip, List.replicate]

/-- Settles O48: with PREV = FB1 every lane of a differential word is SKIP, so the passes of R296 are three clean passes
of SKIP and the tail, and the commit writes what PREV holds. -/
theorem partialIsIdempotent : Obligations.PartialIsIdempotent := by
  unfold Obligations.PartialIsIdempotent
  intro s h
  refine ⟨bDiff_of_committed h, fun hok hinv hm hff hpower => ⟨_, rfl, ?_⟩⟩
  obtain ⟨hframe, hdriven⟩ := partialCmd_drives hok hinv hm hff hpower
  rw [partialPasses_of_committed h] at hdriven
  refine ⟨?_, ?_, hdriven⟩
  · rw [hframe, h]
  · rw [hframe]

end Sys2Proof.Machine

/-! ### Rotations and CLEAR (43 R230, R232, R235) -/

namespace Sys2Proof.Machine

/-! #### The inverse of a rotation -/

theorem rotation_cases : ∀ r : BitVec 2, r = 0#2 ∨ r = 1#2 ∨ r = 2#2 ∨ r = 3#2 := by decide

/-- The logical point whose physical pixel is (px, py): the inverse maps of 43 R235. -/
def unrotate (c : Config) (r : BitVec 2) (px py : Int) : Int × Int :=
  match r with
  | 0 => (px, py)
  | 1 => (py, (c.w : Int) - 1 - px)
  | 2 => ((c.w : Int) - 1 - px, (c.h : Int) - 1 - py)
  | 3 => ((c.h : Int) - 1 - py, px)

theorem rotate_unrotate (c : Config) (r : BitVec 2) (px py : Int) :
    rotate c r (unrotate c r px py).1 (unrotate c r px py).2 = (px, py) := by
  obtain rfl | rfl | rfl | rfl := rotation_cases r <;> simp [rotate, unrotate]

theorem unrotate_rotate (c : Config) (r : BitVec 2) (x y : Int) :
    unrotate c r (rotate c r x y).1 (rotate c r x y).2 = (x, y) := by
  obtain rfl | rfl | rfl | rfl := rotation_cases r <;> simp [rotate, unrotate]

/-- The inverse takes the panel into the logical extent. -/
theorem inExtent_unrotate {c : Config} {px py : Int} (r : BitVec 2) (hx : 0 ≤ px) (hw : px < c.w) (hy : 0 ≤ py)
    (hh : py < c.h) : inExtent c r (unrotate c r px py).1 (unrotate c r px py).2 = true := by
  rw [inExtent_iff]
  obtain rfl | rfl | rfl | rfl := rotation_cases r
  all_goals
    simp only [logicalExtent, unrotate]
    omega

/-- Settles O22: `unrotate` is the two-sided inverse of `rotate`, and each takes its domain into the other's. -/
theorem rotationIsABijection : Obligations.RotationIsABijection := by
  unfold Obligations.RotationIsABijection
  intro c r
  refine ⟨fun x y => rotate_mem_panel, fun px py hx hw hy hh => ⟨?_, ?_, ?_, ?_⟩⟩
  · refine ⟨_, _, inExtent_unrotate r hx hw hy hh, rotate_unrotate c r px py, fun x' y' _ hpixel => ?_⟩
    have hinv := unrotate_rotate c r x' y'
    rw [hpixel] at hinv
    simp [hinv]
  · exact rotate_unrotate c 1 px py
  · exact rotate_unrotate c 2 px py
  · exact rotate_unrotate c 3 px py

/-! #### CLEAR -/

theorem exec_clear_mono {s : State} (h : s.mode = .mono) : exec .clear s = .next { s with fb1 := [] } := by
  simp [exec, execClear, clearCmd, h]

theorem exec_clear_gray {s : State} (h : s.mode = .gray) : exec .clear s = .next { s with fb3 := [] } := by
  simp [exec, execClear, clearCmd, h]

/-- Settles O26: the active buffer becomes the empty list of cells, where every byte reads as the blank one. -/
theorem clearBlanksTheActiveBuffer : Obligations.ClearBlanksTheActiveBuffer := by
  unfold Obligations.ClearBlanksTheActiveBuffer
  exact fun s =>
    ⟨fun hmono => ⟨_, exec_clear_mono hmono, rfl, fun _ => rfl⟩,
      fun hgray => ⟨_, exec_clear_gray hgray, rfl, fun _ => rfl⟩⟩

end Sys2Proof.Machine

/-! ### Raw scan commands (44 R260-R267) -/

namespace Sys2Proof.Machine

/-! #### Power and presence gates (44 R264-R267; 60 R367) -/

/-- Settles O33: each raw command asks for ON first, and VSTART for expander 0 next. -/
theorem rawScanCommandsAreGatedOnPower : Obligations.RawScanCommandsAreGatedOnPower := by
  unfold Obligations.RawScanCommandsAreGatedOnPower
  intro s i
  refine ⟨fun hoff hraw => ?_, fun hon habsent => ?_⟩
  · obtain rfl | rfl | ⟨d, rfl⟩ | ⟨d, rfl⟩ := hraw <;> exact congrArg Host.Outcome.next (if_neg hoff)
  · have hx : ¬s.xpresent0 = true := by simp [habsent]
    exact congrArg Host.Outcome.next ((if_pos hon).trans (if_neg hx))

/-! #### Words and levels -/

/-- Raising lines and lowering all of them again, and maybe more, is lowering. -/
theorem or_and_not_of_subset {a b : Word} (h : a &&& ~~~b = 0) (w : Word) : (w ||| a) &&& ~~~b = w &&& ~~~b := by
  rw [Sys2Proof.Laws.RowMatch.or_and, h]
  exact BitVec.or_zero

/-- What was lowered before it is raised is as if only raised. -/
theorem and_not_or_self {n : Nat} (w m : BitVec n) : w &&& ~~~m ||| m = w ||| m := by
  ext k
  simp only [BitVec.getElem_or, BitVec.getElem_and, BitVec.getElem_not]
  cases w[k] <;> cases m[k] <;> rfl

theorem and_not_and_not (w a b : Word) : w &&& ~~~a &&& ~~~b = w &&& ~~~(a ||| b) := by
  rw [BitVec.not_or, BitVec.and_assoc]

/-- Every bit a drive byte sets is a data line, whatever the parameters (42 R202). -/
theorem pinlut_subset_dataMask (c : Config) (d : Byte) : pinlut c d &&& ~~~(dataMask c) = 0 := by
  apply BitVec.eq_of_getLsbD_eq
  intro k hk
  cases hbit : (pinlut c d).getLsbD k with
  | false => simp [hbit]
  | true =>
    obtain ⟨j, hpos, hj⟩ := (pinlut_getLsbD_iff c d hk).mp hbit
    have hdata : (dataMask c).getLsbD k = true :=
      (pinlut_getLsbD_iff c _ hk).mpr
        ⟨j, hpos, (BitVec.getLsbD_allOnes ..).trans (decide_eq_true (BitVec.lt_of_getLsbD hj))⟩
    simp [hdata]

/-- The word a column write raises lies in the lines it lowers (44 R262). -/
theorem columnWord_subset (c : Config) (d : Byte) :
    (pinlut c d ||| clMask c) &&& ~~~(dataMask c ||| clMask c) = 0 := by
  have hdata : pinlut c d &&& ~~~(dataMask c ||| clMask c) = 0 := by
    rw [← and_not_and_not, pinlut_subset_dataMask]
    exact BitVec.zero_and
  rw [Sys2Proof.Laws.RowMatch.or_and, hdata, ← and_not_and_not, BitVec.and_assoc, BitVec.and_comm, BitVec.and_assoc]
  simp

/-! #### The scan primitives as a whole (44 R261-R263) -/

theorem columnWrite_eq (d : Byte) (s : State) :
    columnWrite d s = { s with
      fastOut := s.fastOut &&& ~~~(dataMask s.cfg ||| clMask s.cfg)
      trace := s.trace ++ [.fset (pinlut s.cfg d ||| clMask s.cfg), .fclr (dataMask s.cfg ||| clMask s.cfg)] } := by
  have hout : (columnWrite d s).fastOut = s.fastOut &&& ~~~(dataMask s.cfg ||| clMask s.cfg) :=
    or_and_not_of_subset (columnWord_subset s.cfg d) s.fastOut
  have htrace : (columnWrite d s).trace = s.trace ++
      [.fset (pinlut s.cfg d ||| clMask s.cfg), .fclr (dataMask s.cfg ||| clMask s.cfg)] :=
    List.append_assoc s.trace _ _
  rw [show columnWrite d s = _ from wordFrame_columnWrite d s, hout, htrace]

theorem hscanStartSeq_eq (d : Byte) (s : State) :
    hscanStartSeq d s = { s with
      fastOut := s.fastOut &&& ~~~(dataMask s.cfg ||| clMask s.cfg) ||| sphMask s.cfg ||| ckvMask s.cfg
      trace := s.trace ++ [.fclr (sphMask s.cfg), .fset (pinlut s.cfg d ||| clMask s.cfg),
        .fclr (dataMask s.cfg ||| clMask s.cfg), .fset (sphMask s.cfg), .fset (ckvMask s.cfg)] } := by
  have hcolumn : hscanStartSeq d s =
      fastSet (ckvMask s.cfg) (fastSet (sphMask s.cfg) (columnWrite d (fastClear (sphMask s.cfg) s))) := rfl
  have hout : (hscanStartSeq d s).fastOut =
      s.fastOut &&& ~~~(dataMask s.cfg ||| clMask s.cfg) ||| sphMask s.cfg ||| ckvMask s.cfg := by
    rw [hcolumn, columnWrite_eq]
    simp only [fastSet_fastOut, fastClear_fastOut, fastClear_cfg]
    rw [BitVec.and_assoc, BitVec.and_comm (~~~_), ← BitVec.and_assoc, and_not_or_self]
  have htrace : (hscanStartSeq d s).trace = s.trace ++ [.fclr (sphMask s.cfg), .fset (pinlut s.cfg d ||| clMask s.cfg),
      .fclr (dataMask s.cfg ||| clMask s.cfg), .fset (sphMask s.cfg), .fset (ckvMask s.cfg)] := by
    simp [hscanStartSeq]
  rw [show hscanStartSeq d s = _ from wordFrame_hscanStartSeq d s, hout, htrace]

theorem vscanEndSeq_eq (s : State) :
    vscanEndSeq s = { s with
      fastOut := s.fastOut &&& ~~~(ckvMask s.cfg ||| leMask s.cfg)
      trace := s.trace ++ [.fclr (ckvMask s.cfg), .fset (leMask s.cfg), .fclr (leMask s.cfg)] } := by
  have hout : (vscanEndSeq s).fastOut = s.fastOut &&& ~~~(ckvMask s.cfg ||| leMask s.cfg) := by
    have hle : leMask s.cfg &&& ~~~(leMask s.cfg) = 0 := by simp
    exact (or_and_not_of_subset hle _).trans (and_not_and_not s.fastOut _ _)
  have htrace : (vscanEndSeq s).trace =
      s.trace ++ [.fclr (ckvMask s.cfg), .fset (leMask s.cfg), .fclr (leMask s.cfg)] := by
    simp [vscanEndSeq]
  rw [show vscanEndSeq s = _ from wordFrame_vscanEndSeq s, hout, htrace]

/-- Settles O35: the column write in the middle lowers every line it raised, and SPH and CKV rise last. -/
theorem hstartLatchesTheFirstWord : Obligations.HstartLatchesTheFirstWord := by
  unfold Obligations.HstartLatchesTheFirstWord
  exact fun s d hon => congrArg Host.Outcome.next ((if_pos hon).trans (hscanStartSeq_eq d s))

/-- Settles O36: the column write lowers every line it raised. -/
theorem hdataClocksOneWord : Obligations.HdataClocksOneWord := by
  unfold Obligations.HdataClocksOneWord
  exact fun s d hon => congrArg Host.Outcome.next ((if_pos hon).trans (columnWrite_eq d s))

/-- Settles O37: LE is lowered again, and CKV before it. -/
theorem vendPulsesTheLatch : Obligations.VendPulsesTheLatch := by
  unfold Obligations.VendPulsesTheLatch
  exact fun s hon => congrArg Host.Outcome.next ((if_pos hon).trans (vscanEndSeq_eq s))

/-! #### VSCAN_START_SEQ (44 R260) -/

theorem shadowGet_coreSet (sig : CoreSig) (l : Bool) (s : State) (a : RegAddr) :
    shadowGet (coreSet sig l s) .x0 a =
      if a = olatOf (corePin s.cfg sig) then
        (if l then shadowGet s .x0 (olatOf (corePin s.cfg sig)) ||| pinMask (corePin s.cfg sig)
          else shadowGet s .x0 (olatOf (corePin s.cfg sig)) &&& ~~~(pinMask (corePin s.cfg sig)))
      else shadowGet s .x0 a := by
  simpa [coreSet] using shadowGet_pinOutSet .x0 .x0 (corePin s.cfg sig) l a s

/-- CORE_SET pushes its byte exactly when the latch changes (41 R176). -/
theorem coreSet_trace (sig : CoreSig) (l : Bool) (s : State) :
    (coreSet sig l s).trace = s.trace ++
      (if pinLatch s .x0 (corePin s.cfg sig) = l then []
       else [.xw .x0 (olatOf (corePin s.cfg sig)) (shadowGet (coreSet sig l s) .x0 (olatOf (corePin s.cfg sig)))]) :=
  pinOutSet_trace .x0 (corePin s.cfg sig) l s

@[simp] theorem delayUs_trace (n : Nat) (s : State) : (delayUs n s).trace = s.trace ++ [.dus n] := rfl

theorem shadowGet_vscanStartSeq (s : State) (a : RegAddr) :
    shadowGet (vscanStartSeq s) .x0 a =
      if a = olatOf s.cfg.pinSpv then shadowGet s .x0 (olatOf s.cfg.pinSpv) ||| pinMask s.cfg.pinSpv
      else shadowGet s .x0 a := by
  have hspv : corePin s.cfg .spv = s.cfg.pinSpv := rfl
  by_cases ha : a = olatOf s.cfg.pinSpv <;> simp [vscanStartSeq, shadowGet_coreSet, hspv, ha, and_not_or_self]

/-- CKV, raised and lowered four times, is left raised. -/
theorem vscanStartSeq_fastOut (s : State) : (vscanStartSeq s).fastOut = s.fastOut ||| ckvMask s.cfg := by
  simp only [vscanStartSeq, fastSet_fastOut, fastClear_fastOut, delayUs_fastOut, coreSet_fastOut, and_not_or_self,
    BitVec.or_assoc, BitVec.or_self]

/-- The events of R260: SPV's first write is one only if SPV was high, its second always is. -/
theorem vscanStartSeq_trace (s : State) :
    (vscanStartSeq s).trace = s.trace ++ [.fset (ckvMask s.cfg), .dus s.cfg.vsT[0]] ++
      (if pinLatch s .x0 s.cfg.pinSpv then
        [.xw .x0 (olatOf s.cfg.pinSpv) (shadowGet s .x0 (olatOf s.cfg.pinSpv) &&& ~~~(pinMask s.cfg.pinSpv))]
      else []) ++
      [.dus s.cfg.vsT[1], .fclr (ckvMask s.cfg), .dus s.cfg.vsT[2], .fset (ckvMask s.cfg), .dus s.cfg.vsT[3],
       .xw .x0 (olatOf s.cfg.pinSpv) (shadowGet s .x0 (olatOf s.cfg.pinSpv) ||| pinMask s.cfg.pinSpv),
       .dus s.cfg.vsT[4], .fclr (ckvMask s.cfg), .dus s.cfg.vsT[5], .fset (ckvMask s.cfg), .dus s.cfg.vsT[6],
       .fclr (ckvMask s.cfg), .dus s.cfg.vsT[7], .fset (ckvMask s.cfg), .dus s.cfg.vsT[8], .fclr (ckvMask s.cfg),
       .dus s.cfg.vsT[9], .fset (ckvMask s.cfg)] := by
  have hspv : corePin s.cfg .spv = s.cfg.pinSpv := rfl
  cases hlatch : pinLatch s .x0 s.cfg.pinSpv <;>
    simp [vscanStartSeq, coreSet_trace, shadowGet_coreSet, hspv, hlatch, and_not_or_self]

/-- Settles O34: the shadow byte, CKV and the events of VSCAN_START_SEQ, and its frame for everything else. -/
theorem vstartEmitsTheStartSequence : Obligations.VstartEmitsTheStartSequence := by
  unfold Obligations.VstartEmitsTheStartSequence
  intro s hon hx
  refine ⟨vscanStartSeq s, congrArg Host.Outcome.next ((if_pos hon).trans (if_pos hx)), ?_,
    shadowGet_vscanStartSeq s, vscanStartSeq_trace s⟩
  rw [← vscanStartSeq_fastOut]
  exact scanFrame_vscanStartSeq s

end Sys2Proof.Machine

/-! ### What a pass emits, and the levels it returns to (44 R268-R271) -/

namespace Sys2Proof.Machine

/-! #### Lines and the register image -/

/-- The latch of a pin of expander 0 in a register image. -/
def latchIn (v : Vector Byte 22) (p : Pin) : Bool := (v.get (olatOf p)).getLsbD (p.val % 8)

theorem latchIn_shadow0 (s : State) (p : Pin) : latchIn s.shadow0 p = pinLatch s .x0 p := rfl

/-- A latch line is one event if it moves the latch, else none (41 R175). -/
theorem lineEvents_latch_length (v : Vector Byte 22) (p : Pin) (l : Bool) :
    (lineEvents v (.latch p l)).length = if latchIn v p = l then 0 else 1 := by
  unfold latchIn
  simp only [lineEvents, lineUpdates, List.flatMap_cons, List.flatMap_nil, List.append_nil, putLatch_eq_self_iff]
  by_cases hlatch : (v.get (olatOf p)).getLsbD (p.val % 8) = l <;> simp [hlatch]

/-- The byte a latch line sets. -/
theorem lineImage_latch_get (v : Vector Byte 22) (p : Pin) (l : Bool) :
    (lineImage v (.latch p l)).get (olatOf p) =
      if l then v.get (olatOf p) ||| pinMask p else v.get (olatOf p) &&& ~~~(pinMask p) :=
  Vector.getElem_set_self (olatOf p).isLt

theorem latchIn_lineImage_latch (v : Vector Byte 22) (p : Pin) (l : Bool) :
    latchIn (lineImage v (.latch p l)) p = l := by
  have hp : p.val % 8 < 8 := Nat.mod_lt _ (by decide)
  rw [latchIn, lineImage_latch_get]
  cases l <;> simp [pinMask_getElem, hp]

/-- A pulse that starts high leaves the image as it was. -/
theorem lineImage_pulse {v : Vector Byte 22} {p : Pin} (h : latchIn v p = true) :
    lineImage (lineImage v (.latch p false)) (.latch p true) = v := by
  have hbyte : v.get (olatOf p) ||| pinMask p = v.get (olatOf p) := ((putLatch_eq_self_iff _ p true).mpr h).symm
  have hlow := lineImage_latch_get v p false
  calc lineImage (lineImage v (.latch p false)) (.latch p true)
      = (lineImage v (.latch p false)).set (olatOf p).val
          ((lineImage v (.latch p false)).get (olatOf p) ||| pinMask p) (olatOf p).isLt := rfl
    _ = (lineImage v (.latch p false)).set (olatOf p).val (v.get (olatOf p)) (olatOf p).isLt := by
        rw [hlow, if_neg Bool.false_ne_true, and_not_or_self, hbyte]
    _ = v.set (olatOf p).val (v.get (olatOf p)) (olatOf p).isLt := Vector.set_set ..
    _ = v := Vector.set_getElem_self (olatOf p).isLt

/-- Lines that are events are their own events, one each, and leave the image. -/
theorem script_of_events {ls : List Line} (h : ∀ l ∈ ls, ∃ e, l = .event e) (v : Vector Byte 22) :
    (scriptEvents ls v).length = ls.length ∧ scriptImage ls v = v := by
  induction ls with
  | nil => exact ⟨rfl, rfl⟩
  | cons l ls ih =>
    obtain ⟨e, rfl⟩ := h l List.mem_cons_self
    obtain ⟨hlength, himage⟩ := ih fun l hl => h l (List.mem_cons_of_mem _ hl)
    exact ⟨congrArg Nat.succ hlength, himage⟩

/-! #### Counting events from SPV high (44 R270) -/

/-- Started with SPV high, the lines are `n` events and leave the register image as it was. -/
def EmitsFromIdle (c : Config) (n : Nat) (ls : List Line) : Prop :=
  ∀ v, latchIn v c.pinSpv = true → (scriptEvents ls v).length = n ∧ scriptImage ls v = v

namespace EmitsFromIdle

variable {c : Config} {n m : Nat} {ls ms : List Line}

theorem nil (c : Config) : EmitsFromIdle c 0 [] := fun _ _ => ⟨rfl, rfl⟩

theorem append (h : EmitsFromIdle c n ls) (k : EmitsFromIdle c m ms) : EmitsFromIdle c (n + m) (ls ++ ms) := by
  intro v hv
  obtain ⟨hlength, himage⟩ := h v hv
  obtain ⟨klength, kimage⟩ := k v hv
  rw [scriptEvents_append, scriptImage_append, himage, List.length_append, hlength, klength]
  exact ⟨rfl, kimage⟩

theorem of_events (h : ∀ l ∈ ls, ∃ e, l = .event e) : EmitsFromIdle c ls.length ls := fun v _ => script_of_events h v

theorem flatMap {α : Type} (l : List α) {f : α → List Line} (h : ∀ a, EmitsFromIdle c n (f a)) :
    EmitsFromIdle c (l.length * n) (l.flatMap f) := by
  induction l with
  | nil => simpa using nil c
  | cons a l ih =>
    rw [List.flatMap_cons, List.length_cons, Nat.succ_mul, Nat.add_comm]
    exact (h a).append ih

theorem replicate (k : Nat) (h : EmitsFromIdle c n ls) : EmitsFromIdle c (k * n) (List.replicate k ls).flatten := by
  induction k with
  | zero => simpa using nil c
  | succ k ih =>
    rw [List.replicate_succ, List.flatten_cons, Nat.succ_mul, Nat.add_comm]
    exact h.append ih

/-- The pulse of SPV is two events (44 R260). -/
theorem vscanStartLines (c : Config) : EmitsFromIdle c 21 (vscanStartLines c) := by
  intro v hv
  have himage : ∀ u e, lineImage u (.event e) = u := fun _ _ => rfl
  have hevent : ∀ u e, (lineEvents u (.event e)).length = 1 := fun _ _ => rfl
  constructor
  · simp only [Machine.vscanStartLines, scriptEvents, List.length_append, List.length_nil, himage, hevent,
      lineEvents_latch_length, latchIn_lineImage_latch, hv, Bool.true_eq_false, Bool.false_eq_true, if_false]
  · simp only [Machine.vscanStartLines, scriptImage, List.foldl_cons, List.foldl_nil, himage, lineImage_pulse hv]

theorem columnLines (c : Config) (d : Byte) : EmitsFromIdle c 2 (columnLines c d) :=
  of_events (by simp [Machine.columnLines])

theorem rowLines (hok : configOk c = true) (word : Nat → Byte) :
    EmitsFromIdle c (c.w / 2 + 6) (rowLines c word) := by
  have hcolumns := flatMap (List.range (wordsPerRow c - 1)) fun k => columnLines c (word (k + 1))
  have hstart : EmitsFromIdle c 5 ([.event (.fclr (sphMask c))] ++ Machine.columnLines c (word 0) ++
      [.event (.fset (sphMask c)), .event (.fset (ckvMask c))]) := of_events (by simp [Machine.columnLines])
  have hend : EmitsFromIdle c 3 [.event (.fclr (ckvMask c)), .event (.fset (leMask c)), .event (.fclr (leMask c))] :=
    of_events (by simp)
  have hcount : 5 + (List.range (wordsPerRow c - 1)).length * 2 + 3 = c.w / 2 + 6 := by
    simp only [configOk, geometryOk, Bool.and_eq_true, decide_eq_true_eq] at hok
    rw [List.length_range, wordsPerRow]
    omega
  exact hcount ▸ (hstart.append hcolumns).append hend

theorem passLines (hok : configOk c = true) (b : WordSource) : EmitsFromIdle c (passLength c) (passLines c b) := by
  have hrows := flatMap (List.range c.h) fun y => rowLines hok (b y)
  have hdelay : EmitsFromIdle c 1 [.event (.dus c.passDelayUs)] := of_events (by simp)
  have hcount : 21 + (List.range c.h).length * (c.w / 2 + 6) + 1 = passLength c := by
    rw [List.length_range, passLength]
    omega
  exact hcount ▸ ((vscanStartLines c).append hrows).append hdelay

theorem cleanLines (hok : configOk c = true) (l : List (BitVec 2 × Nat)) :
    EmitsFromIdle c (passCount l * passLength c) (cleanLines c l) := by
  induction l with
  | nil => simpa [passCount, Machine.cleanLines] using nil c
  | cons e l ih =>
    have hcode := (passLines hok fun _ _ => cleanByte e.1).replicate e.2
    have hcount : passCount (e :: l) = e.2 + passCount l := rfl
    rw [hcount, Nat.add_mul]
    exact hcode.append ih

end EmitsFromIdle

/-- Lines shown from SPV high lengthen the trace by their count and leave the shadow of expander 0. -/
theorem Shows.of_idle {ls : List Line} {s t : State} {n : Nat} (h : Shows ls s t) (hspv : SpvHigh s)
    (hn : EmitsFromIdle s.cfg n ls) : t.trace.length = s.trace.length + n ∧ t.shadow0 = s.shadow0 := by
  obtain ⟨htrace, hshadow⟩ := h
  obtain ⟨hlength, himage⟩ := hn s.shadow0 ((latchIn_shadow0 s s.cfg.pinSpv).trans hspv)
  rw [htrace, hshadow, List.length_append, hlength, himage]
  exact ⟨rfl, rfl⟩

theorem shows_scanRow (b : WordSource) (y : Nat) (s : State) : Shows (rowLines s.cfg (b y)) s (scanRow b y s) :=
  ((PanelDrive.refl s).then_scanRow b y).shows

theorem shows_pass (b : WordSource) (s : State) : Shows (passLines s.cfg b) s (pass b s) :=
  ((PanelDrive.refl s).then_pass b).shows

/-- Settles O38: a pass shows its lines, and with SPV high each line is one event. -/
theorem passEventCount : Obligations.PassEventCount := by
  unfold Obligations.PassEventCount
  refine fun s b => ⟨shows_pass b s, fun hok hspv => ⟨?_, fun y => ?_, ?_⟩⟩
  · exact ((shows_vscanStartSeq s).of_idle hspv (.vscanStartLines s.cfg)).1
  · exact ((shows_scanRow b y s).of_idle hspv (.rowLines hok (b y))).1
  · exact ((shows_pass b s).of_idle hspv (.passLines hok b)).1

/-! #### Levels after a row and after a pass (44 R271) -/

theorem and_not_of_disjoint {a b : Word} (h : a &&& b = 0) : a &&& ~~~b = a := by
  ext k hk
  have hbit := congrArg (fun w : Word => w[k]) h
  simp only [BitVec.getElem_and, BitVec.getElem_not] at hbit ⊢
  cases ha : a[k] <;> simp_all

theorem and_not_or_and (w p : Word) : w &&& ~~~p ||| w &&& p = w := by
  ext k
  simp only [BitVec.getElem_or, BitVec.getElem_and, BitVec.getElem_not]
  cases w[k] <;> cases p[k] <;> rfl

/-- Under the mask `p`, the levels `m` put in its place are seen. -/
theorem levels_and_mask {m p : Word} (h : m &&& ~~~p = 0) (w : Word) : (w &&& ~~~p ||| m) &&& p = m := by
  have hm : m &&& p = m := by simpa [h] using and_not_or_and m p
  rw [Sys2Proof.Laws.RowMatch.or_and, hm, BitVec.and_assoc]
  simp

section Levels

variable {c : Config} (h : configOk c = true)
include h

/-- Two control lines have two positions (00 R10). -/
theorem controlMask_disjoint {i j : Fin 12} (hij : i ≠ j) : (1 : Word) <<< fastPos c i &&& 1 <<< fastPos c j = 0 := by
  have hne : ¬fastPos c i = fastPos c j := fun heq => hij (fastPos_inj h heq)
  show BitVec.twoPow 32 (fastPos c i) &&& BitVec.twoPow 32 (fastPos c j) = 0
  rw [BitVec.and_twoPow, BitVec.getLsbD_twoPow]
  simp [hne]

/-- A control line other than CL is none of the lines a column write moves. -/
theorem controlMask_and_columnMask {j : Fin 12} (hj : 9 ≤ j.val) :
    (1 : Word) <<< fastPos c j &&& (dataMask c ||| clMask c) = 0 := by
  have hdata : dataMask c &&& (1 : Word) <<< fastPos c j = 0 := pinlut_and_controlMask h 0xFF (by omega)
  have hcl : clMask c &&& (1 : Word) <<< fastPos c j = 0 :=
    controlMask_disjoint h (i := 8) (Fin.ne_of_val_ne (by simp; omega))
  rw [BitVec.and_comm, Sys2Proof.Laws.RowMatch.or_and, hdata, hcl]
  rfl

/-- SPH is neither CKV nor LE. -/
theorem sphMask_and_endMask : sphMask c &&& (ckvMask c ||| leMask c) = 0 := by
  have hckv : ckvMask c &&& sphMask c = 0 := controlMask_disjoint h (i := 10) (j := 11) (by decide)
  have hle : leMask c &&& sphMask c = 0 := controlMask_disjoint h (i := 9) (j := 11) (by decide)
  rw [BitVec.and_comm, Sys2Proof.Laws.RowMatch.or_and, hckv, hle]
  rfl

end Levels

/-- The words of a row end with the data lanes and CL low, SPH and CKV high. -/
theorem rowWords_fastOut {s : State} (hok : configOk s.cfg = true) (b : WordSource) (y n : Nat) :
    (forUpTo n (fun k => columnWrite (b y (k + 1))) (hscanStartSeq (b y 0) s)).fastOut =
      s.fastOut &&& ~~~(dataMask s.cfg ||| clMask s.cfg) ||| sphMask s.cfg ||| ckvMask s.cfg := by
  have hsph : sphMask s.cfg &&& (dataMask s.cfg ||| clMask s.cfg) = 0 :=
    controlMask_and_columnMask hok (j := 11) (by decide)
  have hckv : ckvMask s.cfg &&& (dataMask s.cfg ||| clMask s.cfg) = 0 :=
    controlMask_and_columnMask hok (j := 10) (by decide)
  refine (forUpTo_keeps n (P := fun t => t.cfg = s.cfg ∧ t.fastOut = _) (fun k t _ ht => ?_) ?_).2
  · obtain ⟨hcfg, hout⟩ := ht
    rw [columnWrite_eq]
    refine ⟨hcfg, ?_⟩
    simp only [hcfg, hout, Sys2Proof.Laws.RowMatch.or_and, and_not_of_disjoint hsph, and_not_of_disjoint hckv,
      BitVec.and_assoc, BitVec.and_self]
  · rw [hscanStartSeq_eq]
    exact ⟨rfl, rfl⟩

/-- A row ends with SPH high and every other line of the panel low (44 R271). -/
theorem scanRow_fastOut {s : State} (hok : configOk s.cfg = true) (b : WordSource) (y : Nat) :
    (scanRow b y s).fastOut = s.fastOut &&& ~~~(panelMask s.cfg) ||| sphMask s.cfg := by
  have hwords := rowWords_fastOut hok b y (wordsPerRow s.cfg - 1)
  have hcfg : (forUpTo (wordsPerRow s.cfg - 1) (fun k => columnWrite (b y (k + 1)))
      (hscanStartSeq (b y 0) s)).cfg = s.cfg :=
    forUpTo_keeps _ (P := fun t => t.cfg = s.cfg) (fun k t _ ht => (scanFrame_columnWrite _ t).cfg_eq.trans ht)
      (scanFrame_hscanStartSeq _ s).cfg_eq
  have hpanel : panelMask s.cfg =
      dataMask s.cfg ||| clMask s.cfg ||| (ckvMask s.cfg ||| leMask s.cfg) ||| sphMask s.cfg := by
    rw [panelMask, BitVec.or_comm (ckvMask s.cfg), ← BitVec.or_assoc]
  have hckv : ckvMask s.cfg &&& ~~~(ckvMask s.cfg ||| leMask s.cfg) = 0 := by
    rw [← and_not_and_not]
    simp
  calc (scanRow b y s).fastOut
      = (s.fastOut &&& ~~~(dataMask s.cfg ||| clMask s.cfg) ||| sphMask s.cfg ||| ckvMask s.cfg) &&&
          ~~~(ckvMask s.cfg ||| leMask s.cfg) := by rw [scanRow, vscanEndSeq_eq, hwords, hcfg]
    _ = (s.fastOut &&& ~~~(dataMask s.cfg ||| clMask s.cfg) ||| sphMask s.cfg) &&&
          ~~~(ckvMask s.cfg ||| leMask s.cfg) := or_and_not_of_subset hckv _
    _ = s.fastOut &&& ~~~(dataMask s.cfg ||| clMask s.cfg ||| (ckvMask s.cfg ||| leMask s.cfg)) ||| sphMask s.cfg := by
          rw [Sys2Proof.Laws.RowMatch.or_and, and_not_of_disjoint (sphMask_and_endMask hok), and_not_and_not]
    _ = s.fastOut &&& ~~~(panelMask s.cfg) ||| sphMask s.cfg := by
          rw [hpanel, ← and_not_and_not _ _ (sphMask s.cfg), and_not_or_self]

/-- So does a pass, after its last row. -/
theorem pass_fastOut {s : State} (hok : configOk s.cfg = true) (b : WordSource) :
    (pass b s).fastOut = s.fastOut &&& ~~~(panelMask s.cfg) ||| sphMask s.cfg := by
  obtain ⟨n, hn⟩ : ∃ n, s.cfg.h = n + 1 := by
    simp only [configOk, geometryOk, Bool.and_eq_true, decide_eq_true_eq] at hok
    exact Nat.exists_eq_add_of_le' (by omega)
  have hrows := (PanelDrive.vscanStartSeq s).then_forUpTo n (fun y _ _ hy => hy.then_scanRow b y)
  have hlast := scanRow_fastOut (hrows.cfg_eq.symm ▸ hok) b n
  rw [hrows.cfg_eq, hrows.fastOut_kept] at hlast
  rw [pass, hn]
  exact hlast

/-- Settles O39: the last row leaves the idle levels, and SPV's pulse leaves the shadow. -/
theorem passReturnsToIdleLevels : Obligations.PassReturnsToIdleLevels := by
  unfold Obligations.PassReturnsToIdleLevels
  refine fun s b hok => ⟨fun hidle => ?_, fun y => ?_⟩
  · obtain ⟨hlevels, hspv⟩ := hidle
    have hout : (pass b s).fastOut = s.fastOut := by
      rw [pass_fastOut hok, ← hlevels, and_not_or_and]
    have hshadow : (pass b s).shadow0 = s.shadow0 := ((shows_pass b s).of_idle hspv (.passLines hok b)).2
    refine ⟨⟨?_, ?_⟩, hout, hshadow⟩
    · rw [hout, (scanFrame_pass b s).cfg_eq, hlevels]
    · rw [SpvHigh, (scanFrame_pass b s).cfg_eq, pinLatch_of_shadow0 hshadow]
      exact hspv
  · rw [scanRow_fastOut hok]
    exact levels_and_mask (inPanel_sphMask s.cfg) s.fastOut

end Sys2Proof.Machine

/-! ### Refreshes that reach ON (45 R290-R302) -/

namespace Sys2Proof.Machine

/-! #### Word sources outlive the drive (45 R293) -/

section Words

variable {s t : State} (h : DriveFrame s t)
include h

theorem DriveFrame.bFwd_eq : bFwd t = bFwd s := by
  unfold bFwd fb1Read
  rw [h]

theorem DriveFrame.bRev_eq : bRev t = bRev s := by
  unfold bRev fb1Read
  rw [h]

theorem DriveFrame.bGray_eq (p : Phase) : bGray p t = bGray p s := by
  unfold bGray fb3Read
  rw [h]

theorem DriveFrame.fullPasses_eq : fullPasses t = fullPasses s := by
  have hcfg : t.cfg = s.cfg := by rw [h]
  rw [fullPasses, h.bFwd_eq, h.bRev_eq, hcfg]
  rfl

theorem DriveFrame.grayscalePasses_eq : grayscalePasses t = grayscalePasses s := by
  have hcfg : t.cfg = s.cfg := by rw [h]
  simp only [grayscalePasses, h.bGray_eq, hcfg]

end Words

/-! #### DISPLAY in MONO (45 R291) -/

/-- The clean passes, then one forward and one reverse pass of FB1. -/
def fullDrive (s : State) : State :=
  repeatPass fullRevRepeat bRev (repeatPass fullFwdRepeat bFwd (cleanList s.cfg.fullPreamble s))

/-- What DISPLAY does in MONO between its power-on and its power-off. -/
def fullWork (s : State) : State := cleanList (cleanTail s.cfg) (commitFull (fullDrive s))

theorem fullMonoBody_eq (s : State) : fullMonoBody s = powerOffSeq (fullWork s) := rfl

theorem scanFrame_fullDrive (s : State) : ScanFrame s (fullDrive s) :=
  (scanFrame_cleanList _ s).trans (scanFrame_repeatPass _ _ _) |>.trans (scanFrame_repeatPass _ _ _)

theorem scanFrame_fullWork (s : State) : ScanFrame { s with prev := s.fb1, forcedFull := false } (fullWork s) := by
  have hdrive := scanFrame_fullDrive s
  refine ScanFrame.trans ?_ (scanFrame_cleanList (cleanTail s.cfg) _)
  unfold ScanFrame commitFull at *
  rw [hdrive]

theorem panelDrive_fullWork (s : State) : PanelDrive (fullPasses s) s (fullWork s) := by
  have hclean := scanFrame_cleanList s.cfg.fullPreamble s
  have hfwd := hclean.trans (scanFrame_repeatPass fullFwdRepeat bFwd _)
  have hdrive := ((PanelDrive.refl s).then_cleanList s.cfg.fullPreamble)
    |>.then_repeatPass fullFwdRepeat (fun _ hu => hu.drive.bFwd_eq)
    |>.then_repeatPass fullRevRepeat (fun _ hu => hu.drive.bRev_eq)
  rw [hclean.drive.bFwd_eq, hfwd.drive.bRev_eq] at hdrive
  have hcommit := hdrive.then_quiet (u := commitFull (fullDrive s)) rfl rfl rfl rfl
  refine PanelDrive.of_lines ?_ (hcommit.then_cleanList (cleanTail s.cfg))
  simp [fullPasses, fullFwdRepeat, fullRevRepeat]

/-- Settles O44: the power-on leaves FB1, so the passes are those of `s`; the commit comes after them and before the
tail. -/
theorem displayMonoCommitsAndPowersOff : Obligations.DisplayMonoCommitsAndPowersOff := by
  unfold Obligations.DisplayMonoCommitsAndPowersOff
  intro s hok hm hpower
  have hreach := reachesOn_powerOnSeq hok hpower
  have hframe := hreach.frame
  have hcmd : displayCmd s = powerOffSeq (fullWork (powerOnSeq s)) := by
    simp [displayCmd, hm, fullMonoSeq, poweredRefresh, hreach.pwr_on, fullMonoBody_eq]
  have hfb1 : (powerOnSeq s).fb1 = s.fb1 := by rw [hframe]
  have hwork := panelDrive_fullWork (powerOnSeq s)
  rw [hframe.fullPasses_eq] at hwork
  refine ⟨_, congrArg Host.Outcome.next hcmd, hreach.drivenRefresh hpower.1 hwork ?_⟩
  exact hfb1 ▸ scanFrame_fullWork (powerOnSeq s)

/-! #### DISPLAY in GRAY (45 R292) -/

/-- What DISPLAY does in GRAY between its power-on and its power-off. -/
def grayWork (s : State) : State := cleanList s.cfg.grayTail (grayPasses (cleanList s.cfg.fullPreamble s))

theorem grayBody_eq (s : State) : grayBody s = powerOffSeq (grayWork s) := rfl

theorem scanFrame_grayWork (s : State) : ScanFrame s (grayWork s) :=
  (scanFrame_cleanList _ s).trans (scanFrame_grayPasses _) |>.trans (scanFrame_cleanList _ _)

/-- The phase passes drive FB3 as it was before the drive. -/
theorem PanelDrive.then_phases {ls : List Line} {s t : State} (h : PanelDrive ls s t) (hframe : ScanFrame s t)
    (l : List Phase) :
    PanelDrive (ls ++ l.flatMap fun p => passLines s.cfg (bGray p s)) s
      (l.foldl (fun u p => pass (bGray p u) u) t) := by
  induction l generalizing ls t with
  | nil => exact (List.append_nil ls).symm ▸ h
  | cons p l ih =>
    have hpass := h.then_pass (bGray p t)
    rw [hframe.drive.bGray_eq] at hpass
    rw [List.flatMap_cons, ← List.append_assoc, List.foldl_cons, hframe.drive.bGray_eq]
    exact ih hpass (hframe.trans (scanFrame_pass _ t))

theorem panelDrive_grayWork (s : State) : PanelDrive (grayscalePasses s) s (grayWork s) :=
  ((PanelDrive.refl s).then_cleanList s.cfg.fullPreamble).then_phases (scanFrame_cleanList _ s) phases
    |>.then_cleanList s.cfg.grayTail

/-- Settles O45: the work between power-on and power-off is scans only, which write no buffer. -/
theorem displayGrayLeavesHistoryAlone : Obligations.DisplayGrayLeavesHistoryAlone := by
  unfold Obligations.DisplayGrayLeavesHistoryAlone
  intro s hok hm hpower
  have hreach := reachesOn_powerOnSeq hok hpower
  have hframe := hreach.frame
  have hcmd : displayCmd s = powerOffSeq (grayWork (powerOnSeq s)) := by
    simp [displayCmd, hm, graySeq, poweredRefresh, hreach.pwr_on, grayBody_eq]
  have hprev : (powerOnSeq s).prev = s.prev := by rw [hframe]
  have hforced : (powerOnSeq s).forcedFull = s.forcedFull := by rw [hframe]
  have hwork := panelDrive_grayWork (powerOnSeq s)
  rw [hframe.grayscalePasses_eq] at hwork
  refine ⟨_, congrArg Host.Outcome.next hcmd,
    hreach.drivenRefresh (prev := s.prev) (forced := s.forcedFull) hpower.1 hwork ?_⟩
  rw [← hprev, ← hforced]
  exact scanFrame_grayWork (powerOnSeq s)

/-! #### PARTIAL (45 R296) -/

/-- Settles O46: `partialCmd_drives` is the statement's body. -/
theorem partialCommitsAndPowersOff : Obligations.PartialCommitsAndPowersOff := by
  unfold Obligations.PartialCommitsAndPowersOff
  exact fun s hok hinv hm hff hpower => ⟨_, rfl, partialCmd_drives hok hinv hm hff hpower⟩

/-- What PARTIAL drives does not depend on the form of the buffers. -/
theorem partialCmd_driven {s : State} (hok : configOk s.cfg = true) (hm : s.mode = .mono) (hff : s.forcedFull = false)
    (hx : s.xpresent0 = true) (hon : s.pwr = .on) : DrivenRefresh s (partialPasses s) (partialCmd s) := by
  have hreach := reachesOn_powerOnSeq hok ⟨hx, .inl hon⟩
  rw [powerOnSeq_on hon] at hreach
  have hcmd : partialCmd s = powerOffSeq (partialWork s) := by
    simp [partialCmd, hm, hff, partialSeq, poweredRefresh, powerOnSeq_on, hon, partialBody_eq]
  obtain ⟨prev, hcommit⟩ := commitPartial_frame (repeatPass partialRepeat bDiff s)
  have hpasses := scanFrame_repeatPass partialRepeat bDiff s
  have hframe : ScanFrame { s with prev := prev, forcedFull := s.forcedFull } (partialWork s) := by
    unfold partialWork
    rw [hcommit]
    refine ScanFrame.trans ?_ (scanFrame_cleanList (cleanTail s.cfg) _)
    unfold ScanFrame at *
    rw [hpasses]
  rw [hcmd]
  exact (hreach.drivenRefresh hx (panelDrive_partialWork s) hframe).2

/-! #### How many events a refresh is (45 R302) -/

/-- A poll reads at least once and at most 250 times (46 R332). -/
theorem pollReads_bounds (pred : Byte → Bool) (s : State) (k : Nat) :
    1 ≤ pollReads pred s k ∧ pollReads pred s k ≤ 250 := by
  unfold pollReads
  split
  · next n hn =>
    have hlt : n < 250 := List.mem_range.mp (List.mem_of_find?_eq_some hn)
    omega
  · decide

/-- A poll is two events a read (46 R332). -/
theorem scriptEvents_pollLines_length (pred : Byte → Bool) (s : State) (k : Nat) (v : Vector Byte 22) :
    (scriptEvents (pollLines pred s k) v).length = 2 * pollReads pred s k := by
  have hevents : ∀ l ∈ pollLines pred s k, ∃ e, l = .event e := by
    simp only [pollLines, List.mem_flatMap, List.mem_cons, List.not_mem_nil, or_false]
    rintro l ⟨n, -, rfl | rfl⟩ <;> exact ⟨_, rfl⟩
  rw [(script_of_events hevents v).1, pollLines]
  simp [Nat.mul_comm]

@[simp] theorem delayMs_trace (n : Nat) (s : State) : (delayMs n s).trace = s.trace ++ [.dms n] := rfl

/-- The power-off lowers six latches, which are high while ON, and has three events more (46 R334). -/
theorem scriptEvents_powerOffLines_length {s : State} (hok : configOk s.cfg = true) (hinv : PowerInv s)
    (hon : s.pwr = .on) : (scriptEvents (powerOffLines s.cfg) s.shadow0).length = 9 := by
  obtain ⟨-, -, -, hpowered, -, -⟩ := hinv
  obtain ⟨-, -, hpins⟩ := hpowered hon
  have hhigh : ∀ sig, pinLatch s .x0 (corePin s.cfg sig) = true := fun sig => (hpins _ (corePin_mem s.cfg sig)).2
  have hcount : (powerOffSetup s).trace.length = s.trace.length + 9 := by
    simp [powerOffSetup, coreSet_trace, hhigh, corePin_eq_iff (configOk_corePins hok)]
  obtain ⟨htrace, -⟩ := (PanelDrive.powerOffSetup s).shows
  rw [htrace, List.length_append] at hcount
  omega

/-- A refresh from ON is its passes, the nine events of the power-off and the poll (45 R302; 46 R334). -/
theorem DrivenRefresh.trace_length {s t : State} {passes : List Line} {n : Nat} (h : DrivenRefresh s passes t)
    (hok : configOk s.cfg = true) (hinv : PowerInv s) (hon : s.pwr = .on) (hn : EmitsFromIdle s.cfg n passes) :
    ∃ k, 1 ≤ k ∧ k ≤ 250 ∧ t.trace.length = s.trace.length + n + 9 + 2 * k := by
  obtain ⟨⟨htrace, -⟩, -⟩ := h
  obtain ⟨hmin, hmax⟩ := pollReads_bounds (pgCleared s.cfg) s 0
  obtain ⟨-, -, -, hpowered, -, -⟩ := id hinv
  obtain ⟨-, -, hpins⟩ := hpowered hon
  have hspv : SpvHigh s := (hpins _ (corePin_mem s.cfg .spv)).2
  obtain ⟨hlength, himage⟩ := hn s.shadow0 ((latchIn_shadow0 s s.cfg.pinSpv).trans hspv)
  have hlines : refreshLines s passes = passes ++ (powerOffLines s.cfg ++ pollLines (pgCleared s.cfg) s 0) := by
    simp [refreshLines, turnOnLines, turnOnReads, hon]
  refine ⟨_, hmin, hmax, ?_⟩
  rw [htrace, hlines, scriptEvents_append, himage, scriptEvents_append]
  simp only [List.length_append, hlength, scriptEvents_powerOffLines_length hok hinv hon,
    scriptEvents_pollLines_length]
  omega

theorem emitsFromIdle_fullPasses {s : State} (hok : configOk s.cfg = true) :
    EmitsFromIdle s.cfg ((passCount s.cfg.fullPreamble + 1 + 1 + 2) * passLength s.cfg) (fullPasses s) := by
  have hlines := ((EmitsFromIdle.cleanLines hok s.cfg.fullPreamble).append (.passLines hok (bFwd s))).append
    (.passLines hok (bRev s)) |>.append (.cleanLines hok (cleanTail s.cfg))
  have htail : passCount (cleanTail s.cfg) = 2 := rfl
  simp only [htail, Nat.add_mul, Nat.one_mul] at hlines ⊢
  exact hlines

theorem emitsFromIdle_grayscalePasses {s : State} (hok : configOk s.cfg = true) :
    EmitsFromIdle s.cfg ((passCount s.cfg.fullPreamble + 9 + passCount s.cfg.grayTail) * passLength s.cfg)
      (grayscalePasses s) := by
  have hphases := EmitsFromIdle.flatMap (List.finRange 9) fun p => .passLines hok (bGray p s)
  have hlines := ((EmitsFromIdle.cleanLines hok s.cfg.fullPreamble).append hphases).append
    (.cleanLines hok s.cfg.grayTail)
  simp only [List.length_finRange, Nat.add_mul] at hlines ⊢
  exact hlines

theorem emitsFromIdle_partialPasses {s : State} (hok : configOk s.cfg = true) :
    EmitsFromIdle s.cfg ((3 + 2) * passLength s.cfg) (partialPasses s) := by
  have hdiff := EmitsFromIdle.passLines hok (bDiff s)
  have hlines := ((hdiff.append hdiff).append hdiff).append (.cleanLines hok (cleanTail s.cfg))
  have htail : passCount (cleanTail s.cfg) = 2 := rfl
  have hcount : passLength s.cfg + passLength s.cfg + passLength s.cfg + 2 * passLength s.cfg =
      (3 + 2) * passLength s.cfg := by omega
  rw [htail, hcount] at hlines
  exact hlines

/-- Settles O50: the passes start and end with SPV high, so each is `passLength` events. -/
theorem refreshPassCounts : Obligations.RefreshPassCounts := by
  unfold Obligations.RefreshPassCounts
  intro s hok hinv hon
  obtain ⟨-, -, -, hpowered, -, -⟩ := id hinv
  obtain ⟨hx, -⟩ := hpowered hon
  refine ⟨fun hm => ?_, fun hm => ?_, fun hm hff => ?_⟩
  · obtain ⟨t, ht, -, hdriven⟩ := displayMonoCommitsAndPowersOff s hok hm ⟨hx, .inl hon⟩
    obtain ⟨n, hn⟩ := hdriven.trace_length hok hinv hon (emitsFromIdle_fullPasses hok)
    exact ⟨t, n, ht, hn⟩
  · obtain ⟨t, ht, -, hdriven⟩ := displayGrayLeavesHistoryAlone s hok hm ⟨hx, .inl hon⟩
    obtain ⟨n, hn⟩ := hdriven.trace_length hok hinv hon (emitsFromIdle_grayscalePasses hok)
    exact ⟨t, n, ht, hn⟩
  · have hdriven := partialCmd_driven hok hm hff hx hon
    obtain ⟨n, hn⟩ := hdriven.trace_length hok hinv hon (emitsFromIdle_partialPasses hok)
    exact ⟨_, n, rfl, hn⟩

end Sys2Proof.Machine

/-! ### The comparator (45 R297) -/

namespace Sys2Proof.Machine

/-- A pixel that changed became white or black (45 R297). -/
theorem toWhite_or_toBlack (new old : Byte) : toWhite new old ||| toBlack new old = new ^^^ old := by
  apply BitVec.eq_of_getLsbD_eq
  intro j hj
  rw [BitVec.getLsbD_or, BitVec.getLsbD_xor, toWhite_getLsbD, toBlack_getLsbD new old j hj]
  cases new.getLsbD j <;> cases old.getLsbD j <;> rfl

/-- Settles O19: each bit of a mask is the old bit and the new one compared. -/
theorem comparatorMasks : Obligations.ComparatorMasks := by
  unfold Obligations.ComparatorMasks
  exact fun new old => ⟨toWhite_and_toBlack new old, toWhite_or_toBlack new old,
    fun j hj => ⟨toWhite_getLsbD new old j, toBlack_getLsbD new old j hj⟩⟩

end Sys2Proof.Machine

/-! ### Refreshes that do not reach ON (45 R294; 46 R333, R339) -/

namespace Sys2Proof.Machine

/-- With no good answer in time the poll ends in the abort (46 R331, R333). -/
theorem powerOnSeq_fails {s : State} (h : PowerFails s) :
    powerOnSeq s = powerOnAbort (pgPoll (pgGood s.cfg) pgTimeoutMs (powerOnSetup s)).2 := by
  obtain ⟨hx, hoff, hbad⟩ := h
  have hpoll : ¬(pgPoll (pgGood s.cfg) pgTimeoutMs (powerOnSetup s)).1 = true := by
    simp only [pgPoll_fst, pmicAnswer_powerOnSetup]
    rintro ⟨k, hk, hgood⟩
    exact absurd hgood (by simp [hbad k hk])
  unfold powerOnSeq
  rw [if_neg hoff, if_pos hx]
  exact if_neg hpoll

/-- What a power-on that times out leaves: OFF, the failure recorded, and whatever the panel drive does not write as it
was (46 R333, R338). -/
theorem powerOnSeq_fails_spec {s : State} (h : PowerFails s) :
    DriveFrame s (powerOnSeq s) ∧ (powerOnSeq s).pwr = .off ∧ (powerOnSeq s).pwrFail = true ∧
      (powerOnSeq s).lastErr = 6 := by
  obtain ⟨hpoll, -⟩ := pgPoll_snd (pgGood s.cfg) pgTimeoutMs (powerOnSetup s)
  rw [powerOnSeq_fails h]
  obtain ⟨habort, hpwr, hfail, hlast, -⟩ := powerOnAbort_spec (pgPoll (pgGood s.cfg) pgTimeoutMs (powerOnSetup s)).2
  exact ⟨((driveFrame_powerOnSetup s).trans hpoll.drive).trans habort, hpwr, hfail, hlast⟩

section NotOn

variable {s : State} (h : (powerOnSeq s).pwr ≠ .on)
include h

/-- A refresh whose power-on does not reach ON is that power-on (45 R294; 46 R339). -/
theorem poweredRefresh_notOn (body : State → State) : poweredRefresh body s = powerOnSeq s := if_neg h

theorem displayCmd_notOn : displayCmd s = powerOnSeq s := by
  unfold displayCmd
  split
  · exact poweredRefresh_notOn h fullMonoBody
  · exact poweredRefresh_notOn h grayBody

theorem partialCmd_notOn (hm : s.mode = .mono) : partialCmd s = powerOnSeq s := by
  unfold partialCmd
  rw [hm]
  dsimp only
  split
  · exact poweredRefresh_notOn h fullMonoBody
  · exact poweredRefresh_notOn h partialBody

end NotOn

/-- Settles O49: the timeout leaves OFF, so every refresh ends with its power-on. -/
theorem refreshWithoutPowerDrivesNothing : Obligations.RefreshWithoutPowerDrivesNothing := by
  unfold Obligations.RefreshWithoutPowerDrivesNothing
  intro s hfails
  obtain ⟨hframe, hpwr, hfail, hlast⟩ := powerOnSeq_fails_spec hfails
  have hoff : (powerOnSeq s).pwr ≠ .on := by simp [hpwr]
  have hdisplay : exec .display s = .next (powerOnSeq s) := congrArg Host.Outcome.next (displayCmd_notOn hoff)
  refine ⟨hdisplay, fun hm => congrArg Host.Outcome.next (partialCmd_notOn hoff hm), powerOnSeq s, hdisplay,
    ?_, ?_, ?_, ?_, hpwr, hfail, hlast⟩ <;> rw [hframe]

end Sys2Proof.Machine

/-! ### The other paths of PARTIAL, and its commit (45 R295, R298, R301) -/

namespace Sys2Proof.Machine

/-- Settles O51: the commit's loop leaves each byte of PREV equal to that of FB1, and canonical buffers that read alike
are equal. -/
theorem partialCommitIsAnOverwrite : Obligations.PartialCommitIsAnOverwrite := by
  unfold Obligations.PartialCommitIsAnOverwrite
  exact fun _ hinv => commitPartial_eq hinv

theorem partialCmd_forcedFull {s : State} (hm : s.mode = .mono) (hff : s.forcedFull = true) :
    partialCmd s = displayCmd s := by
  unfold partialCmd displayCmd
  rw [hm]
  exact if_pos hff

theorem partialCmd_gray {s : State} (hm : s.mode = .gray) : partialCmd s = s := by
  unfold partialCmd
  rw [hm]

/-- Settles O47: PARTIAL asks for the mode first, then for FORCED_FULL. -/
theorem partialForcedFullAndGray : Obligations.PartialForcedFullAndGray := by
  unfold Obligations.PartialForcedFullAndGray
  exact fun _ => ⟨fun hm hff => congrArg Host.Outcome.next (partialCmd_forcedFull hm hff),
    fun hm => congrArg Host.Outcome.next (partialCmd_gray hm)⟩

end Sys2Proof.Machine

/-! ### The power commands (46 R330-R338) -/

namespace Sys2Proof.Machine

/-! #### The poll's answers come off the tape (00 R14; 46 R332) -/

theorem drawPmic_envPmic (s : State) : (drawPmic s).2.envPmic = s.envPmic.drop 1 := by
  unfold drawPmic
  cases s.envPmic <;> simp

/-- A poll takes as many answers off the tape as it makes reads. -/
theorem pgPoll_envPmic (pred : Byte → Bool) (n : Nat) (s : State) :
    (pgPoll pred n s).2.envPmic = s.envPmic.drop (readsWithin n pred s) := by
  induction n generalizing s with
  | zero => rfl
  | succ n ih =>
    have hread : (pmicRead s.cfg.pgReg (delayMs pgPollMs s)).1 = pmicAnswer s 0 := drawPmic_fst _
    have hrest : (pmicRead s.cfg.pgReg (delayMs pgPollMs s)).2.envPmic = s.envPmic.drop 1 := drawPmic_envPmic _
    simp only [pgPoll]
    rw [readsWithin_succ n pred s _ (pmicAnswer_pmicRead s.cfg.pgReg (delayMs pgPollMs s)), hread]
    split
    · exact hrest
    · rw [ih, hrest, List.drop_drop, Nat.add_comm]

/-- The steps around a poll draw no answer. -/
theorem ScanFrame.envPmic_eq {s t : State} (h : ScanFrame s t) : t.envPmic = s.envPmic := by rw [h]

@[simp] theorem coreSet_envPmic (sig : CoreSig) (l : Bool) (s : State) : (coreSet sig l s).envPmic = s.envPmic :=
  (scanFrame_coreSet sig l s).envPmic_eq

@[simp] theorem coreOut_envPmic (sig : CoreSig) (s : State) : (coreOut sig s).envPmic = s.envPmic :=
  (scanFrame_coreOut sig s).envPmic_eq

theorem powerOnSetup_envPmic (s : State) : (powerOnSetup s).envPmic = s.envPmic := by
  simp [powerOnSetup, fastSet, fastClear, fastDirOut, delayMs, pmicWrite]

theorem powerOnAbort_envPmic (s : State) : (powerOnAbort s).envPmic = s.envPmic := by
  simp [powerOnAbort, fastClear]

theorem powerOffSetup_envPmic (s : State) : (powerOffSetup s).envPmic = s.envPmic := by
  simp [powerOffSetup, fastClear, delayMs]

/-! #### Pull-ups of the core pins (41 R178) -/

section Pullup

variable (s : State) (q : Pin)

@[simp] theorem pinPullup_emit (e : Event) : pinPullup (emit e s) .x0 q = pinPullup s .x0 q := rfl

@[simp] theorem pinPullup_setFastOut (w : Word) : pinPullup (setFastOut w s) .x0 q = pinPullup s .x0 q := rfl

@[simp] theorem pinPullup_setFastDir (w : Word) : pinPullup (setFastDir w s) .x0 q = pinPullup s .x0 q := rfl

@[simp] theorem pinPullup_setPwr (p : Pwr) : pinPullup (setPwr p s) .x0 q = pinPullup s .x0 q := rfl

@[simp] theorem pinPullup_recordError (e : ErrCode) : pinPullup (recordError e s) .x0 q = pinPullup s .x0 q :=
  pinPullup_of_shadow0 (recordError_shadow0 e s) q

@[simp] theorem pinPullup_coreSet (sig : CoreSig) (l : Bool) : pinPullup (coreSet sig l s) .x0 q = pinPullup s .x0 q :=
  pinPullup_pinOutSet .x0 .x0 _ q l s

/-- `CORE_OUT` clears the pull-up of its pin (41 R178: OUTPUT). -/
@[simp] theorem pinPullup_coreOut (sig : CoreSig) :
    pinPullup (coreOut sig s) .x0 q = if q = corePin s.cfg sig then false else pinPullup s .x0 q := by
  simpa [coreOut] using pinPullup_pinModeSet .x0 .x0 (corePin s.cfg sig) q .output s

end Pullup

theorem powerOnSetup_pullup (s : State) (sig : CoreSig) :
    pinPullup (powerOnSetup s) .x0 (corePin s.cfg sig) = false := by
  cases sig <;> simp [powerOnSetup, fastSet, fastClear, fastDirOut, delayMs, pmicWrite]

theorem powerOnFinish_pullup (s : State) (q : Pin) : pinPullup (powerOnFinish s) .x0 q = pinPullup s .x0 q :=
  pinPullup_coreSet s q .oe true

theorem powerOnAbort_pullup (s : State) (q : Pin) : pinPullup (powerOnAbort s) .x0 q = pinPullup s .x0 q := by
  simp [powerOnAbort, fastClear]

/-! #### PWRON (46 R330-R333, R338) -/

/-- The state in which the poll of a power-on leaves the block, whatever it saw: the events of R331 up to here, the
panel's fast-port bits outputs with SPH alone high, the core pins outputs without pull-up, all but OE high. -/
structure PowerPolled (s u : State) : Prop where
  drive : PanelDrive (powerOnLines s.cfg ++ pollLines (pgGood s.cfg) s 0) s u
  frame : DriveFrame s u
  lastErr_eq : u.lastErr = s.lastErr
  fastDir_eq : u.fastDir = s.fastDir ||| panelMask s.cfg
  fastOut_eq : u.fastOut = s.fastOut &&& ~~~(panelMask s.cfg) ||| sphMask s.cfg
  outputs : ∀ sig, pinIsInput u .x0 (corePin s.cfg sig) = false
  pullups : ∀ sig, pinPullup u .x0 (corePin s.cfg sig) = false
  latches : ∀ sig, pinLatch u .x0 (corePin s.cfg sig) = decide (sig ≠ .oe)
  envPmic_eq : u.envPmic = s.envPmic.drop (pollReads (pgGood s.cfg) s 0)

theorem powerPolled_pgPoll {s : State} (hok : corePinsOk s.cfg = true) :
    PowerPolled s (pgPoll (pgGood s.cfg) pgTimeoutMs (powerOnSetup s)).2 := by
  have hsame : ∀ n, pmicAnswer (powerOnSetup s) n = pmicAnswer s (0 + n) := fun n => by
    rw [pmicAnswer_powerOnSetup, Nat.zero_add]
  have htape := pgPoll_envPmic (pgGood s.cfg) pgTimeoutMs (powerOnSetup s)
  rw [readsWithin_eq_pollReads _ hsame, powerOnSetup_envPmic] at htape
  have hdrive := (PanelDrive.powerOnSetup s).then_pgPoll (pgGood s.cfg) hsame
  obtain ⟨hframe, -, hdir, hout, houtputs, hlatches⟩ := powerOnSetup_spec s hok
  have hlast : (powerOnSetup s).lastErr = s.lastErr := by simp [powerOnSetup]
  obtain ⟨hpoll, -⟩ := pgPoll_snd (pgGood s.cfg) pgTimeoutMs (powerOnSetup s)
  generalize (pgPoll (pgGood s.cfg) pgTimeoutMs (powerOnSetup s)).2 = u at *
  have hshadow := hpoll.shadow0_eq
  refine ⟨hdrive, hframe.trans hpoll.drive, ?_, ?_, ?_, fun sig => ?_, fun sig => ?_, fun sig => ?_, htape⟩
  · rw [hpoll, hlast]
  · rw [hpoll, hdir]
  · rw [hpoll, hout, panelMask, ← and_not_and_not _ _ (sphMask s.cfg), and_not_or_self]
  · rw [pinIsInput_of_shadow0 hshadow, houtputs]
  · rw [pinPullup_of_shadow0 hshadow, powerOnSetup_pullup]
  · rw [pinLatch_of_shadow0 hshadow, hlatches]

/-- Settles O40: the poll leaves all but OE as they shall be, and the output enable raises OE. -/
theorem pwronReachesOn : Obligations.PwronReachesOn := by
  unfold Obligations.PwronReachesOn
  intro s hok hoff hx hgood
  have hpolled := powerPolled_pgPoll (configOk_corePins hok)
  refine ⟨_, congrArg Host.Outcome.next (powerOnSeq_good hoff hx hgood), ?_⟩
  generalize (pgPoll (pgGood s.cfg) pgTimeoutMs (powerOnSetup s)).2 = u at *
  obtain ⟨hdrive, hframe, hlast, hdir, hout, houtputs, hpullups, hlatches, htape⟩ := hpolled
  have hcfg := hdrive.cfg_eq
  obtain ⟨hfinish, hpwr, hfail, hflast, hfdir, hfout, hfinputs, hflatches⟩ :=
    powerOnFinish_spec u (hcfg ▸ configOk_corePins hok)
  have hend := (hdrive.then_coreSet .oe true).then_quiet (u := powerOnFinish u) rfl rfl rfl rfl
  refine ⟨hframe.trans hfinish, hpwr, hfail, hflast.trans hlast, hend.shows, hfdir.trans hdir, hfout.trans hout,
    fun p hp => ?_, hend.otherPins, (coreSet_envPmic .oe true u).trans htape⟩
  obtain ⟨sig, rfl⟩ := mem_corePins.mp hp
  refine ⟨(hfinputs _).trans (houtputs sig), (powerOnFinish_pullup u _).trans (hpullups sig), ?_⟩
  rw [← hcfg, hflatches, hcfg, hlatches]
  cases sig <;> rfl

/-- A poll that no answer satisfies makes all its reads (46 R332). -/
theorem pollReads_of_none {pred : Byte → Bool} {s : State} {k : Nat}
    (h : ∀ n, n < pgTimeoutMs → pred (pmicAnswer s (k + n)) = false) : pollReads pred s k = pgTimeoutMs := by
  have hnone : (List.range pgTimeoutMs).find? (fun n => pred (pmicAnswer s (k + n))) = none :=
    List.find?_eq_none.mpr fun n hn => by simp [h n (List.mem_range.mp hn)]
  rw [pollReads, hnone]

/-- The abort after a drive lowers the core pins and the panel's lines (46 R333). -/
theorem PanelDrive.then_powerOnAbort {ls : List Line} {s t : State} (h : PanelDrive ls s t) :
    PanelDrive (ls ++ powerAbortLines s.cfg) s (powerOnAbort t) := by
  have hpanel : InPanel s.cfg (panelMask s.cfg) := (inPanel_iff _ _).mpr fun _ _ => id
  have habort : PanelDrive (powerAbortLines t.cfg) t (powerOnAbort t) :=
    (PanelDrive.refl t).then_coreSet .wakeup false
      |>.then_coreSet .vcom false |>.then_coreSet .pwrup false
      |>.then_coreSet .oe false |>.then_coreSet .gmod false |>.then_coreSet .spv false
      |>.then_fastClear (h.cfg_eq.symm ▸ hpanel)
      |>.then_quiet (setPwr_cfg .off _) (setPwr_trace .off _) (setPwr_shadow0 .off _) (setPwr_fastOut .off _)
      |>.then_quiet (recordError_cfg .pgTimeout _) (recordError_trace .pgTimeout _)
        (recordError_shadow0 .pgTimeout _) (recordError_fastOut .pgTimeout _)
  exact h.cfg_eq ▸ h.trans habort

/-- Settles O41: without a good answer the poll makes its 250 reads, and the abort lowers what the steps raised. -/
theorem powerNeverGoodFailsSafe : Obligations.PowerNeverGoodFailsSafe := by
  unfold Obligations.PowerNeverGoodFailsSafe
  rintro s hok ⟨hx, hoff, hbad⟩
  have hreads : pollReads (pgGood s.cfg) s 0 = 250 := pollReads_of_none fun n hn => by
    rw [Nat.zero_add]
    exact hbad n hn
  have hpolled := powerPolled_pgPoll (configOk_corePins hok)
  refine ⟨_, congrArg Host.Outcome.next (powerOnSeq_fails ⟨hx, hoff, hbad⟩), ?_⟩
  generalize (pgPoll (pgGood s.cfg) pgTimeoutMs (powerOnSetup s)).2 = u at *
  obtain ⟨hdrive, hframe, hlast, hdir, hout, houtputs, hpullups, hlatches, htape⟩ := hpolled
  obtain ⟨habort, hpwr, hfail, halast, hadir, haout, hainputs, halow⟩ := powerOnAbort_spec u
  have hend := hdrive.then_powerOnAbort
  refine ⟨hframe.trans habort, hpwr, hfail, halast, hend.shows, hreads, hadir.trans hdir, ?_, fun p hp => ?_,
    hend.otherPins, (powerOnAbort_envPmic u).trans (hreads ▸ htape)⟩
  · rw [haout, hdrive.cfg_eq]
    exact hdrive.fastOut_kept
  · obtain ⟨sig, rfl⟩ := mem_corePins.mp hp
    exact ⟨(hainputs _).trans (houtputs sig), (powerOnAbort_pullup u _).trans (hpullups sig),
      hdrive.cfg_eq ▸ halow sig⟩

/-! #### PWROFF (46 R334, R335) -/

/-- The power-off of a block that is not OFF (46 R334). -/
theorem powerOffSeq_present {s : State} (hon : s.pwr ≠ .off) (hx : s.xpresent0 = true) :
    powerOffSeq s = setPwr .off (pgPoll (pgCleared s.cfg) pgTimeoutMs (powerOffSetup s)).2 :=
  (if_neg hon).trans (if_pos hx)

/-- The steps of a power-off write no register of expander 0 but those of the core pins' latches. -/
theorem powerOffSetup_shadowGet {s : State} {a : RegAddr} (h : ∀ sig, a ≠ olatOf (corePin s.cfg sig)) :
    shadowGet (powerOffSetup s) .x0 a = shadowGet s .x0 a := by
  simp [powerOffSetup, shadowGet_coreSet, h]

/-- Settles O42: the steps before the poll lower every line and latch, and the poll's result is ignored. -/
theorem pwroffReachesOff : Obligations.PwroffReachesOff := by
  unfold Obligations.PwroffReachesOff
  intro s _ hon hx
  have hsame : ∀ n, pmicAnswer (powerOffSetup s) n = pmicAnswer s (0 + n) := fun n => by
    rw [pmicAnswer_powerOffSetup, Nat.zero_add]
  have htape := pgPoll_envPmic (pgCleared s.cfg) pgTimeoutMs (powerOffSetup s)
  rw [readsWithin_eq_pollReads _ hsame, powerOffSetup_envPmic] at htape
  have hdrive := (PanelDrive.powerOffSetup s).then_pgPoll (pgCleared s.cfg) hsame
  obtain ⟨hframe, hfail, hlast, hdir, hout, -, hlow⟩ := powerOffSetup_spec s
  obtain ⟨hpoll, -⟩ := pgPoll_snd (pgCleared s.cfg) pgTimeoutMs (powerOffSetup s)
  refine ⟨_, congrArg Host.Outcome.next (powerOffSeq_present hon hx), ?_⟩
  generalize (pgPoll (pgCleared s.cfg) pgTimeoutMs (powerOffSetup s)).2 = u at *
  have hshadow := hpoll.shadow0_eq
  refine ⟨(hframe.trans hpoll.drive).trans (driveFrame_setPwr .off u), rfl, ?_, ?_, hdrive.shows, ?_, ?_,
    fun p hp => ?_, fun p hp => ?_, fun a ha => ?_, htape⟩
  · rw [setPwr_pwrFail, hpoll, hfail]
  · rw [setPwr_lastErr, hpoll, hlast]
  · rw [setPwr_fastDir, hpoll, hdir]
  · rw [setPwr_fastOut, hpoll, hout]
  · obtain ⟨sig, rfl⟩ := mem_corePins.mp hp
    rw [pinLatch_setPwr, pinLatch_of_shadow0 hshadow, hlow]
  · obtain ⟨hpins, -⟩ := hdrive.otherPins
    exact (hpins p hp).2.2
  · rw [← powerOffSetup_shadowGet fun sig => ha _ (corePin_mem s.cfg sig)]
    exact congrArg (fun v => v.get a) hshadow

end Sys2Proof.Machine

/-! ### Runs under the launch premises (70 R412, R413) -/

namespace Sys2Proof.Machine

/-! #### What the steps of a run do -/

/-- What a step that answers a next state does, the command that it runs named by `pendingCommand`: it leaves the block
but for the action taken and the word a read returned, it records an error that is no timeout, it runs the pending
command, or it resets. -/
inductive RunEffect (s : State) : State → Prop where
  | quiet (rest : List HostInput) (data : Word) : RunEffect s { s with hostIn := rest, readData := data }
  | error (rest : List HostInput) (busy : Bool) (e : ErrCode) (he : e ≠ .pgTimeout) :
    RunEffect s (recordError e { s with hostIn := rest, busy := busy })
  | command (rest : List HostInput) (i : Instr) (u : State) (hi : i ∈ pendingCommand s)
    (hu : exec i { s with hostIn := rest, busy := true } = .next u) : RunEffect s (setBusy false u)
  | reset (rest : List HostInput) : RunEffect s (resetSeq { s with hostIn := rest })

theorem pendingCommand_of_write {s : State} {addr bits : Nat} {v : Word} {rest : List HostInput} {i : Instr}
    (hin : s.hostIn = .write addr bits v :: rest) (hreg : hostReg s.cfg addr bits = some .cmd)
    (hfault : s.fault = false) (hbusy : s.busy = false) (hdec : decode v = .command i) : i ∈ pendingCommand s := by
  simp [pendingCommand, hin, hreg, hfault, hbusy, hdec]

theorem runEffect_cmdWrite {s t : State} {addr bits : Nat} {v : Word} {rest : List HostInput}
    (hin : s.hostIn = .write addr bits v :: rest) (hreg : hostReg s.cfg addr bits = some .cmd)
    (h : onCmdWrite v { s with hostIn := rest } = .next t) : RunEffect s t := by
  unfold onCmdWrite at h
  split at h
  · cases h
    exact .quiet rest s.readData
  · next hfault =>
    split at h
    · cases h
      exact .error rest s.busy .busy nofun
    · next hbusy =>
      obtain ⟨u, hu, rfl⟩ := endCommand_next h
      cases hdec : decode v with
      | command i =>
        rw [hdec] at hu
        exact .command rest i u
          (pendingCommand_of_write hin hreg (by simpa using hfault) (by simpa using hbusy) hdec) hu
      | rejected r =>
        rw [hdec] at hu
        cases hu
        exact .error rest false .reservedField nofun

theorem runEffect_step {s t : State} (h : step s = .next t) : configOk s.cfg = true ∧ RunEffect s t := by
  obtain ⟨hok, ⟨-, rfl⟩ | ⟨a, rest, hin, hact⟩⟩ := step_next h
  · exact ⟨hok, .quiet t.hostIn t.readData⟩
  · refine ⟨hok, ?_⟩
    cases a with
    | write addr bits v =>
      simp only [hostAction, hostWrite] at hact
      split at hact
      · next hreg => exact runEffect_cmdWrite hin hreg hact
      · cases hact
        exact .quiet rest s.readData
      · cases hact
        exact .quiet rest s.readData
      · cases hact
    | read addr bits =>
      simp only [hostAction, hostRead] at hact
      split at hact
      · cases hact
        exact .quiet rest _
      · cases hact
    | reset =>
      cases hact
      exact .reset rest

/-- A property that speaks of no host field, and that errors other than a timeout, RESET and each pending command of the
run keep, holds in every state of the run. -/
theorem statesOfRun_keeps {P : State → Prop} {s : State}
    (hquiet : ∀ t rest busy data, P t → P { t with hostIn := rest, busy := busy, readData := data })
    (herror : ∀ t e, e ≠ .pgTimeout → P t → P (recordError e t))
    (hreset : ∀ t, P (resetSeq t))
    (hexec : ∀ t ∈ statesOfRun s, ∀ i ∈ pendingCommand t, ∀ rest u, configOk t.cfg = true →
      P { t with hostIn := rest, busy := true } → exec i { t with hostIn := rest, busy := true } = .next u → P u)
    (hs : P s) : ∀ t ∈ statesOfRun s, P t := by
  refine statesFrom_keeps _ s (fun t u ht hp hstep => ?_) hs
  obtain ⟨hok, heffect⟩ := runEffect_step hstep
  cases heffect with
  | quiet rest data => exact hquiet t rest t.busy data hp
  | error rest busy e he => exact herror _ e he (hquiet t rest busy t.readData hp)
  | command rest i u hi hu =>
    exact hquiet u u.hostIn false u.readData (hexec t ht i hi rest u hok (hquiet t rest true t.readData hp) hu)
  | reset rest => exact hreset _

/-! #### Which commands run the poll of a power-on (46 R331) -/

/-- A power-on comes before any other poll of its command. -/
theorem pollsOf_powerOn_first {i : Instr} {s : State} (h : Poll.powerOn ∈ pollsOf i s) :
    ∃ l, pollsOf i s = .powerOn :: l := by
  unfold pollsOf refreshPolls at *
  split at h
  · cases h
  · next hx =>
    rw [if_neg hx]
    cases i with
    | pwron | pwroff | display | partialRefresh => grind
    | _ => cases h

section PowerOnPolls

variable {s : State} (hoff : s.pwr ≠ .on) (hx : s.xpresent0 = true)
include hoff hx

theorem powerOn_mem_pollsOf_pwron : Poll.powerOn ∈ pollsOf .pwron s := by simp [pollsOf, hoff, hx]

theorem powerOn_mem_pollsOf_display : Poll.powerOn ∈ pollsOf .display s := by simp [pollsOf, refreshPolls, hoff, hx]

theorem powerOn_mem_pollsOf_partial (hm : s.mode = .mono) : Poll.powerOn ∈ pollsOf .partialRefresh s := by
  simp [pollsOf, refreshPolls, hoff, hx, hm]

end PowerOnPolls

/-! #### Power good at the first read (70 R413: PowerGoodAtFirstPoll) -/

/-- Code 6 is that of a power-on that timed out, and of no other error (60 R360). -/
theorem ErrCode.num_eq_six_iff (e : ErrCode) : e.num = 6 ↔ e = .pgTimeout := by cases e <;> decide

/-- No power-on that timed out is recorded. -/
def NoTimeout (s : State) : Prop := s.pwrFail = false ∧ s.lastErr ≠ 6

namespace NoTimeout

variable {s t : State}

theorem congr (h : NoTimeout s) (hfail : t.pwrFail = s.pwrFail) (hlast : t.lastErr = s.lastErr) : NoTimeout t := by
  obtain ⟨hs, hn⟩ := h
  exact ⟨hfail.trans hs, hlast ▸ hn⟩

theorem recordError (h : NoTimeout s) {e : ErrCode} (he : e ≠ .pgTimeout) : NoTimeout (recordError e s) := by
  obtain ⟨hs, -⟩ := h
  exact ⟨by simp [hs, he], fun hlast => he (e.num_eq_six_iff.mp hlast)⟩

theorem ite {p : Prop} [Decidable p] (hs : NoTimeout s) (ht : NoTimeout t) : NoTimeout (if p then s else t) := by
  split
  · exact hs
  · exact ht

theorem scan (h : NoTimeout s) (k : ScanFrame s t) : NoTimeout t := h.congr k.pwrFail_eq k.lastErr_eq

theorem pin {c : Chip} (h : NoTimeout s) (k : PinFrame c s t) : NoTimeout t := by
  cases c <;> (simp only [PinFrame] at k; rw [k]; exact h)

/-- A power-on that sees power good in time, or finds no expander 0, does not time out. -/
theorem powerOnSeq (h : NoTimeout s) (hok : configOk s.cfg = true)
    (hgood : s.pwr ≠ .on → s.xpresent0 = true → PowerComesGood s) : NoTimeout (powerOnSeq s) := by
  by_cases hon : s.pwr = .on
  · rwa [powerOnSeq_on hon]
  · by_cases hx : s.xpresent0 = true
    · have hreach := reachesOn_powerOnSeq hok ⟨hx, .inr (hgood hon hx)⟩
      obtain ⟨hs, hn⟩ := h
      exact ⟨by rw [hreach.pwrFail_eq, hs, Bool.false_and], hreach.lastErr_eq ▸ hn⟩
    · rw [powerOnSeq_absent hon hx]
      exact h.recordError nofun

/-- A power-off records no timeout, whatever its poll answers (46 R334). -/
theorem powerOffSeq (h : NoTimeout s) : NoTimeout (powerOffSeq s) := by
  obtain ⟨-, heq⟩ | ⟨-, heq⟩ | ⟨-, u, hu, heq⟩ := powerOffSeq_cases s <;> rw [heq]
  · exact h
  · exact h.recordError nofun
  · obtain ⟨-, hfail, hlast, -⟩ := powerOffSetup_spec s
    exact h.congr (hu.pwrFail_eq.trans hfail) (by rw [setPwr_lastErr, hu, hlast])

theorem keptByRefresh : KeptByRefresh NoTimeout where
  pass b s _ hs := hs.scan (scanFrame_pass b s)
  commitFull _ _ hs := hs
  commitPartial s _ hs := by
    obtain ⟨p, hp⟩ := commitPartial_frame s
    rw [hp]
    exact hs
  powerOff _ hs := hs.powerOffSeq

theorem pinreadCmd (h : NoTimeout s) (c : Chip) (p : Pin) : NoTimeout (pinreadCmd c p s) := by
  refine .ite ?_ (h.recordError nofun)
  obtain ⟨_, _, hdraw⟩ := drawExp_frame s
  simp only [expRead, hdraw]
  cases c <;> exact h

/-- A command that does not reach the expanders or the panel records nothing. -/
theorem of_kind {i : Instr} (h : NoTimeout s) (ht : exec i s = .next t)
    (hk : kindOf i ∈ [.idle, .buffer, .rotation]) : NoTimeout t := by
  obtain ⟨-, -, -, -, -, hpower, -, -, -, -, hlast, -⟩ := onlyTheNamedCommandsWrite i s t ht
  have hnot : kindOf i ∉ [.power, .refresh] := by grind
  obtain ⟨-, hfail, -⟩ := hpower hnot
  exact h.congr hfail (hlast hk)

theorem exec {i : Instr} (h : NoTimeout s) (hok : configOk s.cfg = true)
    (hgood : Poll.powerOn ∈ pollsOf i s → PowerComesGood s) (ht : exec i s = .next t) : NoTimeout t := by
  cases i with
  | pwron =>
    exact Host.Outcome.next.inj ht ▸ h.powerOnSeq hok fun hoff hx => hgood (powerOn_mem_pollsOf_pwron hoff hx)
  | pwroff => exact Host.Outcome.next.inj ht ▸ h.powerOffSeq
  | display =>
    have hon := h.powerOnSeq hok fun hoff hx => hgood (powerOn_mem_pollsOf_display hoff hx)
    exact Host.Outcome.next.inj ht ▸ keptByRefresh.displayCmd hon
  | partialRefresh =>
    rw [← Host.Outcome.next.inj ht]
    cases hm : s.mode with
    | gray => rwa [partialCmd_gray hm]
    | mono =>
      exact keptByRefresh.partialCmd h
        (h.powerOnSeq hok fun hoff hx => hgood (powerOn_mem_pollsOf_partial hoff hx hm))
  | vstart =>
    exact Host.Outcome.next.inj ht ▸
      .ite (.ite (h.scan (scanFrame_vscanStartSeq s)) (h.recordError nofun)) (h.recordError nofun)
  | hstart d => exact Host.Outcome.next.inj ht ▸ .ite (h.scan (scanFrame_hscanStartSeq d s)) (h.recordError nofun)
  | hdata d => exact Host.Outcome.next.inj ht ▸ .ite (h.scan (scanFrame_columnWrite d s)) (h.recordError nofun)
  | vend => exact Host.Outcome.next.inj ht ▸ .ite (h.scan (scanFrame_vscanEndSeq s)) (h.recordError nofun)
  | pinmode c p mode =>
    exact Host.Outcome.next.inj ht ▸
      .ite (h.recordError nofun) (.ite (h.pin (pinFrame_pinModeSet c p mode s)) (h.recordError nofun))
  | pinwrite c p l =>
    exact Host.Outcome.next.inj ht ▸
      .ite (h.recordError nofun) (.ite (h.pin (pinFrame_pinOutSet c p l s)) (h.recordError nofun))
  | pinread c p => exact Host.Outcome.next.inj ht ▸ h.pinreadCmd c p
  | reserved low => exact Host.Outcome.next.inj ht ▸ h.recordError nofun
  | nop | setpix _ _ _ | clear | setmode _ | setrot _ => exact h.of_kind ht (by simp [kindOf])

end NoTimeout

/-- Settles O59: no timeout is recorded at the start, and a power-on whose first answer is good records none. -/
theorem goodPowerRunsNeverTimeOut : Obligations.GoodPowerRunsNeverTimeOut := by
  unfold Obligations.GoodPowerRunsNeverTimeOut
  intro s hfail hlast hgood
  refine statesOfRun_keeps (P := NoTimeout) (fun _ _ _ _ h => h) (fun _ _ he h => h.recordError he) (fun t => ?_)
    (fun t ht i hi rest u hok h hu => h.exec hok (fun hmem => ?_) hu) ⟨hfail, hlast⟩
  · rw [show resetSeq t = _ from initFrame_resetSeq t]
    exact ⟨rfl, show (0 : BitVec 4) ≠ 6 by decide⟩
  · obtain ⟨l, hl⟩ := pollsOf_powerOn_first (s := t) hmem
    have hfirst := hgood t ht i hi (.powerOn, 0) (by simp [hl])
    exact ⟨0, by decide, hfirst⟩

/-! #### Power never good (70 R413: PowerNeverGood) -/

/-- OFF, and every fast-port line of the panel low. -/
def LinesDown (s : State) : Prop := s.pwr = .off ∧ s.fastOut &&& panelMask s.cfg = 0

namespace LinesDown

variable {s t : State}

theorem congr (h : LinesDown s) (hcfg : t.cfg = s.cfg) (hpwr : t.pwr = s.pwr) (hout : t.fastOut = s.fastOut) :
    LinesDown t := by
  unfold LinesDown
  rwa [hcfg, hpwr, hout]

theorem recordError (h : LinesDown s) (e : ErrCode) : LinesDown (recordError e s) :=
  h.congr (by simp) (by simp) (by simp)

theorem pwr_off (h : LinesDown s) : s.pwr = .off := h.1

theorem not_on (h : LinesDown s) : s.pwr ≠ .on := by simp [h.pwr_off]

/-- A power-on without a good answer aborts, one without expander 0 stops before it drives a line. -/
theorem powerOnSeq (h : LinesDown s) (hok : configOk s.cfg = true) (hbad : s.xpresent0 = true → NoGoodAnswer s) :
    LinesDown (powerOnSeq s) := by
  by_cases hx : s.xpresent0 = true
  · obtain ⟨t, ht, hframe, hpwr, -, -, -, -, -, hout, -⟩ :=
      powerNeverGoodFailsSafe s hok ⟨hx, h.not_on, hbad hx⟩
    have hcfg : t.cfg = s.cfg := by rw [hframe]
    rw [Host.Outcome.next.inj ht]
    refine ⟨hpwr, ?_⟩
    rw [hout, hcfg]
    simp [BitVec.and_assoc]
  · rw [powerOnSeq_absent h.not_on hx]
    exact h.recordError .absent

/-- A raw scan command is rejected (44 R264-R267). -/
theorem rawScan {i : Instr} (h : LinesDown s) (ht : exec i s = .next t)
    (hi : i = .vstart ∨ i = .vend ∨ (∃ d, i = .hstart d) ∨ ∃ d, i = .hdata d) : LinesDown t := by
  obtain ⟨hgated, -⟩ := rawScanCommandsAreGatedOnPower s i
  rw [hgated h.not_on hi] at ht
  cases ht
  exact h

/-- A command that is no power, refresh or scan command moves no line. -/
theorem of_kind {i : Instr} (h : LinesDown s) (ht : exec i s = .next t)
    (hk : kindOf i ∉ [.power, .refresh, .scanStart, .scanWord]) : LinesDown t := by
  obtain ⟨⟨hcfg, -⟩, -, -, -, -, hpower, hout, -⟩ := onlyTheNamedCommandsWrite i s t ht
  obtain ⟨hpwr, -⟩ := hpower fun hmem => hk (by simp at hmem ⊢; tauto)
  exact h.congr hcfg hpwr (hout hk)

theorem exec {i : Instr} (h : LinesDown s) (hok : configOk s.cfg = true)
    (hbad : Poll.powerOn ∈ pollsOf i s → NoGoodAnswer s) (ht : exec i s = .next t) : LinesDown t := by
  cases i with
  | pwron =>
    exact Host.Outcome.next.inj ht ▸ h.powerOnSeq hok fun hx => hbad (powerOn_mem_pollsOf_pwron h.not_on hx)
  | pwroff => rwa [← Host.Outcome.next.inj ht, powerOffSeq_off h.pwr_off]
  | display =>
    have hdown := h.powerOnSeq hok fun hx => hbad (powerOn_mem_pollsOf_display h.not_on hx)
    rwa [← Host.Outcome.next.inj ht, displayCmd_notOn hdown.not_on]
  | partialRefresh =>
    rw [← Host.Outcome.next.inj ht]
    cases hm : s.mode with
    | gray => rwa [partialCmd_gray hm]
    | mono =>
      have hdown := h.powerOnSeq hok fun hx => hbad (powerOn_mem_pollsOf_partial h.not_on hx hm)
      rwa [partialCmd_notOn hdown.not_on hm]
  | vstart | vend | hstart _ | hdata _ => exact h.rawScan ht (by simp)
  | nop | setpix _ _ _ | clear | setmode _ | setrot _ | pinmode _ _ _ | pinwrite _ _ _ | pinread _ _ | reserved _ =>
    exact h.of_kind ht (by simp [kindOf])

end LinesDown

/-- Settles O60: every power-on of the run aborts, so no refresh and no scan drives a line. -/
theorem neverGoodRunsNeverReachOn : Obligations.NeverGoodRunsNeverReachOn := by
  unfold Obligations.NeverGoodRunsNeverReachOn
  intro s hoff hlow hbad
  refine statesOfRun_keeps (P := LinesDown) (fun _ _ _ _ h => h) (fun _ e _ h => h.recordError e) (fun t => ?_)
    (fun t ht i hi rest u hok h hu => h.exec hok (hbad t ht i hi) hu) ⟨hoff, hlow⟩
  rw [show resetSeq t = _ from initFrame_resetSeq t]
  exact ⟨rfl, BitVec.zero_and⟩

end Sys2Proof.Machine

/-! ### RESET whatever the environment answers, and the reset state (41 R170; 70 R390, R391, R413) -/

namespace Sys2Proof.Machine

/-- A probe appends its event with whatever the environment answers (00 R14). -/
theorem expProbe_answers (c : Chip) (s : State) :
    ∃ a acks d, expProbe c s = (a, { s with trace := s.trace ++ [.xprobe c a], envAcks := acks, draws := d }) := by
  obtain ⟨acks, d, h⟩ := drawAck_frame s
  exact ⟨_, acks, d, by rw [expProbe, h]; rfl⟩

/-- A block read of `n` bytes appends its event with whatever `n` bytes the environment answers (00 R14). -/
theorem expReadBlock_answers (c : Chip) (a : RegAddr) (n : Nat) (s : State) :
    ∃ b exp d, b.length = n ∧
      expReadBlock c a n s = (b, { s with trace := s.trace ++ [.xrb c a n b], envExp := exp, draws := d }) := by
  obtain ⟨exp, d, h⟩ := drawExpBytes_frame n s
  exact ⟨_, exp, d, drawExpBytes_length n s, by rw [expReadBlock, h]; rfl⟩

/-- EXPANDER_INIT for some answer `a` to its probe and, if that acknowledges, some 22 bytes `b` to its block read: the
form of `expanderInit_of_answers` for every state, whether the answers stand on the tapes or are free (41 R170). -/
theorem expanderInit_answers (c : Chip) (s : State) :
    ∃ a b v acks exp d, b.length = 22 ∧
      expanderInit c s = setXpresent c a (setShadow c v
        { s with trace := s.trace ++ initEventsFor c a b, envAcks := acks, envExp := exp, draws := d }) ∧
      (a = true → v.toList = 0xFF :: 0xFF :: b.drop 2) := by
  obtain ⟨a, acks, d, hprobe⟩ := expProbe_answers c s
  cases a with
  | true =>
    obtain ⟨b, exp, d', hb, hread⟩ := expReadBlock_answers c 0 22 (expProbe c s).2
    refine ⟨true, b, forceInputs (imageOf b), acks, exp, d', hb, ?_, fun _ => toList_forceInputs_imageOf hb⟩
    simp only [expanderInit, hread, toList_forceInputs_imageOf hb]
    cases c <;> simp [hprobe, expWriteBlock, emit, setShadow, setXpresent, initEventsFor]
  | false =>
    obtain ⟨d', hfree⟩ := freeBytes_frame 22 (expProbe c s).2
    refine ⟨false, List.replicate 22 0, imageOf (freeBytes 22 (expProbe c s).2).1, acks, s.envExp, d',
      List.length_replicate, ?_, nofun⟩
    simp only [expanderInit, hfree]
    cases c <;> simp [hprobe, setShadow, setXpresent, initEventsFor]

/-- The step that takes the reset input runs RESET (70 R390, R411). -/
theorem step_reset {s : State} {rest : List HostInput} (h : configOk s.cfg = true) (hin : s.hostIn = .reset :: rest) :
    step s = .next (resetSeq { s with hostIn := rest }) := step_cons h hin

/-- Settles O14: RESET sets its fields, and each initialisation adds what its answers determine. -/
theorem resetSetsEveryField : Obligations.ResetSetsEveryField := by
  unfold Obligations.ResetSetsEveryField
  intro s rest hok hin
  obtain ⟨a0, b0, v0, acks0, exp0, d0, hb0, h0, hv0⟩ := expanderInit_answers .x0 (resetFields { s with hostIn := rest })
  obtain ⟨a1, b1, v1, acks1, exp1, d1, hb1, h1, hv1⟩ :=
    expanderInit_answers .x1 (expanderInit .x0 (resetFields { s with hostIn := rest }))
  refine ⟨_, a0, a1, b0, b1, step_reset hok hin, hb0, hb1, ?_⟩
  rw [resetSeq, h1, h0]
  exact ⟨rfl, hv0, hv1⟩

/-- The reset input is asserted in the test configuration; both expanders will answer, with bytes 0x00. -/
def launching : State :=
  { State.reset with hostIn := [.reset], envAcks := [true, true], envExp := List.replicate 44 0 }

/-- The reset state is what RESET leaves there. -/
theorem resetSeq_launching : resetSeq { launching with hostIn := [] } = State.reset := by decide

theorem configOk_tc : configOk Config.tc = true := by decide

theorem step_launching : step launching = .next State.reset :=
  (step_reset configOk_tc rfl).trans (congrArg Host.Outcome.next resetSeq_launching)

theorem cleanLaunch_reset : CleanLaunch State.reset := by
  obtain ⟨t, ht, -, -, -, -, -, -, -, hclean⟩ := resetInitialisesTheExpanders launching [] true true []
    (List.replicate 22 0) (List.replicate 22 0) [] configOk_tc rfl rfl rfl rfl rfl
  exact Host.Outcome.next.inj (ht.symm.trans step_launching) ▸ hclean rfl rfl

/-- Settles O13: the reset state is what RESET leaves, with blank buffers and no error recorded. -/
theorem resetStateMeetsTheInvariants : Obligations.ResetStateMeetsTheInvariants := by
  unfold Obligations.ResetStateMeetsTheInvariants
  refine ⟨cleanLaunch_reset, configOk_tc, .of_blank rfl rfl rfl, ?_, ?_, by decide⟩
  · rw [← resetSeq_launching]
    exact powerInv_resetSeq configOk_tc
  · exact (statusInv_iff _).mpr ⟨rfl, .of_clear rfl rfl rfl rfl rfl rfl⟩

end Sys2Proof.Machine

/-! ### SETMODE (43 R233) -/

namespace Sys2Proof.Machine

theorem exec_setmode_same (s : State) : exec (.setmode s.mode) s = .next s :=
  congrArg Host.Outcome.next (if_pos rfl)

theorem exec_setmode_other {s : State} {m : Mode} (h : m ≠ s.mode) : exec (.setmode m) s =
    .next { s with fb1 := [], prev := [], fb3 := [], forcedFull := true, mode := m } :=
  congrArg Host.Outcome.next (if_neg h)

/-- R233's byte for FB3 is the blank one of GRAY_WHITE = 7. -/
theorem grayBlank_white {c : Config} (h : c.grayWhite = 7) : grayBlank c = 0x77 := by
  rw [grayBlank, h]
  decide

/-- Settles O27: the buffers become the empty list of cells, where every byte reads as the blank one. -/
theorem setmodeChangesTheModeAndBlanks : Obligations.SetmodeChangesTheModeAndBlanks := by
  unfold Obligations.SetmodeChangesTheModeAndBlanks
  refine fun s m => ⟨fun hother => ⟨_, exec_setmode_other hother, rfl, fun i => ⟨rfl, rfl, grayBlank_white, rfl⟩⟩, ?_⟩
  rintro rfl
  exact exec_setmode_same s

end Sys2Proof.Machine
